-- ==== Sys2Proof/Word.lean ====
section
/-! DEFINITION. The value types of the block: a character of a line, a line, and a W-bit word. -/

namespace Sys2Proof

/-- One character of a line: an 8-bit byte (30_encoding.md R47). -/
abbrev Byte := BitVec 8

/-- An instruction line `c[0], ..., c[n-1]`; its length `n` is the list's length (00_scope.md R13). -/
abbrev Line := List Byte

/-- A W-bit value: "a natural number v with 0 <= v < 2^W" (00_scope.md R10, 10_state.md R15).
W is a parameter of the hardware (00_scope.md R6), so the bound is a predicate over the configuration
(`Machine.State.wordsFit` in Safety.lean) and no width stands in the type. -/
abbrev Word := Nat

end Sys2Proof
end

