-- ==== Sys2Proof/Config.lean ====
section
/-! DEFINITION. The build-time parameters of the hardware. They are data of the state that no step changes, so
every statement about every state is a statement about every hardware of the family (log 1, log 2). -/

namespace Sys2Proof

/-- The implementation parameters (00_scope.md R6, R7, R9). -/
structure Config where
  /-- `W`, the width in bits of AX, BX, MEM[0] and MEM[1] (R6). -/
  width : Nat
  /-- `LMAX`, the greatest number of characters of a line (R7). -/
  lmax : Nat
  /-- `CHAR_SIGNED`, whether comparisons read a character code as signed (R9). -/
  charSigned : Bool
deriving DecidableEq, Repr

/-- The values a configuration may take: `W >= 1` (R6) and `LMAX >= 5` (R7). -/
abbrev Config.wf (c : Config) : Prop := 1 ≤ c.width ∧ 5 ≤ c.lmax

/-- The configuration of `State.reset`. LMAX = 6 (R7) and CHAR_SIGNED = false (R9) are the spec's.
DESIGN CHOICE, unsafe (log 1): W = 8, the width of the spec's test vectors; R6 leaves W open. -/
def Config.vnpu : Config := { width := 8, lmax := 6, charSigned := false }

end Sys2Proof
end

