-- ==== Sys2Proof/Machine/Chars.lean ====
section
/-! DEFINITION. The character codes and classes of 30_encoding.md R47 and R48. The codes are ASCII and the
whitespace set is C's isspace: the spec takes both from general knowledge (log 13). -/

namespace Sys2Proof

/-- `SP`, the separator (R47). -/
def chSpace : Byte := 0x20#8
/-- `0`, the first digit (R47). -/
def chZero : Byte := 0x30#8
/-- `9`, the last digit (R47). -/
def chNine : Byte := 0x39#8
/-- `A`, the name of AX (R47). -/
def chA : Byte := 0x41#8
/-- `B`, the name of BX (R47). -/
def chB : Byte := 0x42#8
/-- NUL, which a line never holds (R50). -/
def chNul : Byte := 0x00#8
/-- The line feed, which a line never holds (R50). -/
def chLF : Byte := 0x0A#8

/-- Opcode ADD (R47, R66). -/
def opAdd : Byte := 0x2B#8
/-- Opcode SUB. -/
def opSub : Byte := 0x2D#8
/-- Opcode MUL. -/
def opMul : Byte := 0x2A#8
/-- Opcode DIV. -/
def opDiv : Byte := 0x2F#8
/-- Opcode MOV. -/
def opMov : Byte := 0x4D#8
/-- Opcode EQ. -/
def opEq : Byte := 0x3F#8
/-- Opcode GT. -/
def opGt : Byte := 0x3E#8
/-- Opcode LT. -/
def opLt : Byte := 0x3C#8
/-- Opcode NE. -/
def opNe : Byte := 0x21#8
/-- Opcode PRINT. -/
def opPrint : Byte := 0x40#8
/-- Opcode HALT. -/
def opHalt : Byte := 0x2E#8
/-- Opcode HELP. -/
def opHelp : Byte := 0x48#8

/-- `ws(ch)`: space, tab, line feed, vertical tab, form feed, carriage return (R48). -/
def isSpace (ch : Byte) : Bool :=
  ch == 0x20#8 || ch == 0x09#8 || ch == 0x0A#8 || ch == 0x0B#8 || ch == 0x0C#8 || ch == 0x0D#8

/-- `allws`: every character is whitespace (00_scope.md R13). -/
def allSpace (cs : Line) : Bool := cs.all isSpace

/-- A digit literal, code 0x30 to 0x39 (R47, R63). -/
def isDigit (ch : Byte) : Bool := chZero.toNat ≤ ch.toNat && ch.toNat ≤ chNine.toNat

end Sys2Proof
end

