-- ==== Sys2Proof/Syntax.lean ====
section
/-! DEFINITION. The twelve instructions, one constructor for each row of spec/opcode_table.json. -/

namespace Sys2Proof

/-- A decoded instruction. Operands are the raw operand bytes of the line (30_encoding.md R53, R61): the
multiplexer, `M` and `@` classify them, and the comparisons use them as they stand. -/
inductive Instr where
  /-- `+ x y` (40_arithmetic.md R71). -/
  | add (x y : Byte)
  /-- `- x y` (40_arithmetic.md R72). -/
  | sub (x y : Byte)
  /-- `* x y` (40_arithmetic.md R73). -/
  | mul (x y : Byte)
  /-- `/ x y`, the table's row ROW (40_arithmetic.md R74). -/
  | div (x y : Byte)
  /-- `M x y` (41_move.md R76). -/
  | mov (x y : Byte)
  /-- `? x y` (42_compare.md R78). -/
  | eq (x y : Byte)
  /-- `> x y` (42_compare.md R79). -/
  | gt (x y : Byte)
  /-- `< x y` (42_compare.md R80). -/
  | lt (x y : Byte)
  /-- `! x y` (42_compare.md R81). -/
  | ne (x y : Byte)
  /-- `@ x` (43_print.md R82). -/
  | print (x : Byte)
  /-- `.` (44_system.md R83). -/
  | halt
  /-- `H` (44_system.md R84). -/
  | help
deriving DecidableEq, Repr

end Sys2Proof
end

