-- ==== Sys2Proof/WellFormed.lean ====
section
/-! DEFINITION. Which instructions can stand on the port: operand bytes a dutiful line can hold in an operand
position. -/

namespace Sys2Proof

/-- The operand bytes of an instruction, in line order. -/
def Instr.operands : Instr → List Byte
  | .add x y | .sub x y | .mul x y | .div x y => [x, y]
  | .mov x y => [x, y]
  | .eq x y | .gt x y | .lt x y | .ne x y => [x, y]
  | .print x => [x]
  | .halt | .help => []

/-- An operand position holds "one non-whitespace byte" (30_encoding.md R52) and, by the host's duty, no NUL
(R50). A line feed is whitespace. -/
def operandOk (b : Byte) : Bool := !isSpace b && b != chNul

/-- A well-formed instruction: every operand byte can stand in a line. -/
def Instr.wf (i : Instr) : Bool := i.operands.all operandOk

end Sys2Proof
end

