-- ==== Sys2Proof/Decode.lean ====
section
/-! DEFINITION. The decoder of 30_encoding.md R53, the encoder of R68, and the port layout of R51. -/

namespace Sys2Proof

/-- The operand shape an opcode selects (formats Z, U and B of 30_encoding.md R52), with the instruction it builds. -/
inductive Shape where
  | zero (i : Instr)
  | one (mk : Byte → Instr)
  | two (mk : Byte → Byte → Instr)

/-- Why a line is MALFORMED. This is for the reader: the block records nothing of it (60_exceptions.md R87; log 14). -/
inductive Malformed where
  /-- The first character is no opcode (30_encoding.md R55). -/
  | unknownOpcode
  /-- A `.` or `H` line with further text (R59). -/
  | zeroForm
  /-- A `@` line out of form U (R57, R60). -/
  | oneForm
  /-- A two-operand line out of form B (R58, R60). -/
  | twoForm
deriving DecidableEq, Repr

/-- What the decoder answers (R53). `Z`, `U` and `B` are the shapes of the instruction in `instr`. -/
inductive Decoded where
  | ignored
  | malformed (why : Malformed)
  | instr (i : Instr)
deriving DecidableEq, Repr

/-- The opcode map (R66), one row per instruction. -/
def opcodeMap : List (Byte × Shape) :=
  [ (opAdd, .two .add), (opSub, .two .sub), (opMul, .two .mul), (opDiv, .two .div),
    (opMov, .two .mov), (opEq, .two .eq), (opGt, .two .gt), (opLt, .two .lt),
    (opNe, .two .ne), (opPrint, .one .print), (opHalt, .zero .halt), (opHelp, .zero .help) ]

/-- The row of the opcode map that an opcode character selects. -/
def shapeOf (op : Byte) : Option Shape := opcodeMap.lookup op

/-- How many characters a shape needs: positions 0, 0 to 2, or 0 to 4 (R52, R62). -/
def Shape.significantLength : Shape → Nat
  | .zero _ => 1
  | .one _ => 3
  | .two _ => 5

/-- How many operands a shape takes (R49). -/
def Shape.arity : Shape → Nat
  | .zero _ => 0
  | .one _ => 1
  | .two _ => 2

/-- Form Z: nothing but whitespace after the opcode (R56, R59). -/
def decodeZero (i : Instr) (rest : Line) : Decoded :=
  if allSpace rest then .instr i else .malformed .zeroForm

/-- Form U: one space, one non-whitespace operand, then whitespace only (R57, R60). -/
def decodeOne (mk : Byte → Instr) (rest : Line) : Decoded :=
  match rest with
  | s1 :: x :: tail =>
    if s1 == chSpace && !isSpace x && allSpace tail then .instr (mk x) else .malformed .oneForm
  | _ => .malformed .oneForm

/-- Form B: one space before each of two non-whitespace operands, then whitespace only (R58, R60). -/
def decodeTwo (mk : Byte → Byte → Instr) (rest : Line) : Decoded :=
  match rest with
  | s1 :: x :: s2 :: y :: tail =>
    if s1 == chSpace && s2 == chSpace && !isSpace x && !isSpace y && allSpace tail then .instr (mk x y)
    else .malformed .twoForm
  | _ => .malformed .twoForm

/-- The decoder: "one total function of the line" that "reads no machine state" (R53). -/
def decode (c : Line) : Decoded :=
  match c with
  | [] => .ignored
  | op :: rest =>
    match shapeOf op with
    | none => .malformed .unknownOpcode
    | some (.zero i) => decodeZero i rest
    | some (.one mk) => decodeOne mk rest
    | some (.two mk) => decodeTwo mk rest

/-- The line `<op> <x>` (R68). -/
def lineOne (op x : Byte) : Line := [op, chSpace, x]

/-- The line `<op> <x> <y>` (R68). -/
def lineTwo (op x y : Byte) : Line := [op, chSpace, x, chSpace, y]

/-- The encoder: "an instruction is written exactly as the line the block decodes" (R68), with no trailing
whitespace. -/
def encode : Instr → Line
  | .add x y => lineTwo opAdd x y
  | .sub x y => lineTwo opSub x y
  | .mul x y => lineTwo opMul x y
  | .div x y => lineTwo opDiv x y
  | .mov x y => lineTwo opMov x y
  | .eq x y => lineTwo opEq x y
  | .gt x y => lineTwo opGt x y
  | .lt x y => lineTwo opLt x y
  | .ne x y => lineTwo opNe x y
  | .print x => lineOne opPrint x
  | .halt => [opHalt]
  | .help => [opHelp]

/-- Byte `k` of an instruction register of `8·lmax` bits, `IR[8·lmax-1-8k : 8·lmax-8-8k]`, for `k < lmax`: position 0
is the most significant byte (R51, 20_memory.md R38). -/
def irByte (lmax ir k : Nat) : Byte := BitVec.ofNat 8 (ir / 256 ^ (lmax - 1 - k))

/-- The instruction register that holds the line, every byte past the line 0x00 (R51). It is meant for lines of at most
`lmax` characters. -/
def irOfLine (lmax : Nat) : Line → Nat
  | [] => 0
  | c :: cs => c.toNat * 256 ^ (lmax - 1) + irOfLine (lmax - 1) cs

/-- The line that the port's `LEN` and `IR` carry (R51). -/
def lineOfPort (lmax len ir : Nat) : Line := (List.range len).map (irByte lmax ir)

/-- The port's `LEN` and `IR` for an instruction. -/
def encodePort (lmax : Nat) (i : Instr) : Nat × Nat := ((encode i).length, irOfLine lmax (encode i))

/-- Field OP (R51). -/
def irOP (lmax ir : Nat) : Byte := irByte lmax ir 0
/-- Field S1 (R51). -/
def irS1 (lmax ir : Nat) : Byte := irByte lmax ir 1
/-- Field X (R51). -/
def irX (lmax ir : Nat) : Byte := irByte lmax ir 2
/-- Field S2 (R51). -/
def irS2 (lmax ir : Nat) : Byte := irByte lmax ir 3
/-- Field Y (R51). -/
def irY (lmax ir : Nat) : Byte := irByte lmax ir 4
/-- Field T, the trailing position 5 (R51). -/
def irT (lmax ir : Nat) : Byte := irByte lmax ir 5

/-- The LMAX of the 48-bit words of spec/opcode_table.json (R51). -/
def tableLmax : Nat := 6

/-- The IR of a table word: its low `nbits` bits, at most 48, every other bit 0. The table numbers the bits of the
one 48-bit IR, bit 0 the least significant (DEDUCED, log 7). -/
def tableIR (nbits w : Nat) : Nat := w % 2 ^ nbits % 2 ^ (8 * tableLmax)

/-- The position after the last byte that is not 0x00. -/
def usedLength (ir : Nat) : Nat :=
  (List.range tableLmax).foldl (fun n k => if irByte tableLmax ir k = chNul then n else k + 1) 0

/-- The LEN of a table word, which the table does not give: up to the last byte that is not 0x00, and at least
the characters that the opcode's format needs. DESIGN CHOICE, safe (log 7). -/
def tableLen (ir : Nat) : Nat :=
  match shapeOf (irByte tableLmax ir 0) with
  | none => usedLength ir
  | some sh => max sh.significantLength (usedLength ir)

/-- The line of a table word. -/
def tableLine (nbits w : Nat) : Line :=
  lineOfPort tableLmax (tableLen (tableIR nbits w)) (tableIR nbits w)

/-- The instruction that the decoder reads from a word of spec/opcode_table.json. -/
def decodeTableWord (nbits w : Nat) : Option Instr :=
  match decode (tableLine nbits w) with
  | .instr i => some i
  | .ignored => none
  | .malformed _ => none

end Sys2Proof
end

