-- ==== Sys2Proof/Machine/State.lean ====
section
/-! DEFINITION. The state of the block: the spec's registers, bank, run state, ports and ghost bits, the build-time
parameters, and the inputs the host has presented. -/

namespace Sys2Proof.Machine

/-- The step status (10_state.md R32). -/
inductive Status where
  | ok
  | halt
  | errMalformed
  | errUnresolvable
  | errInvalid
  | ignored
  | idle
deriving DecidableEq, Repr

/-- The output event of a step (10_state.md R33). -/
inductive Event where
  | none
  | dec (v : Word)
  | char (c : Byte)
  | bool (b : Bool)
  | help
  | diag
deriving DecidableEq, Repr

/-- The three error kinds (60_exceptions.md R87). -/
inductive ErrorKind where
  | malformedInstruction
  | unresolvableOperand
  | invalidOperation
deriving DecidableEq, Repr

/-- The two registers (10_state.md R18). -/
inductive Reg where
  | a
  | b
deriving DecidableEq, Repr

/-- One input of the block: `Instr(n, c)`, `Stop` or `Reset` (10_state.md R31). -/
inductive Input where
  | line (c : Line)
  | stop
  | reset
deriving DecidableEq, Repr

/-- Nothing of this hardware is a fault: its errors are next states (60_exceptions.md R88), and the model fault
UNINIT_READ (R101) is recorded in `State.uninitRead` (log 4). So this type has no constructor. -/
inductive Fault where
deriving DecidableEq, Repr

/-- The refusals. All of them are safe: no claim is made about what the hardware does there. -/
inductive Refusal where
  /-- Raised by an arm of `exec` that has no meaning yet. Safe. -/
  | notModelled (mnemonic : String)
  /-- Raised by the step on a line of more than LMAX characters (30_encoding.md R50 (a), 60_exceptions.md R102). Safe. -/
  | lineTooLong
  /-- Raised by the step on a line that holds a line feed (R50 (b), R102). Safe. -/
  | lineFeedInLine
  /-- Raised by the step on a line that holds a NUL (R50 (c), R102). Safe. -/
  | nulInLine
deriving DecidableEq, Repr

/-- The state of the block. INVENTORY.md's State section lists every field with its rule. -/
structure State where
  /-- The build-time parameters; no step changes them (log 1, log 2). -/
  cfg : Config
  /-- Register AX (R18). -/
  ax : Word
  /-- Register BX (R18). -/
  bx : Word
  /-- `MEM[0]`, the high W bits of the last arithmetic result (R22). -/
  mem0 : Word
  /-- `MEM[1]`, the low W bits of the last arithmetic result (R22). -/
  mem1 : Word
  /-- The run state: false is RUNNING, true is HALTED (R25). -/
  halted : Bool
  /-- The status output of the last step (R32). -/
  status : Status
  /-- The event output of the last step (R33). -/
  event : Event
  /-- Ghost: AX has been written since reset (R29). -/
  wAX : Bool
  /-- Ghost: BX has been written since reset (R29). -/
  wBX : Bool
  /-- Ghost: `storeResult` has run since reset (R29). -/
  wMEM : Bool
  /-- The model fault UNINIT_READ has happened (R101). It is a record and stops nothing. DESIGN CHOICE (log 4). -/
  uninitRead : Bool
  /-- Ghost pc: the index of the next line in the host's input sequence (R21; log 10). -/
  lineIndex : Nat
  /-- The model's own field: the inputs presented and not yet taken, the next one first (R31; log 6). -/
  inputs : List Input
deriving DecidableEq, Repr

/-- The block right after reset (70_reset_and_hazards.md R104). `halted`, the ghost bits, the status and the event are
the spec's. DESIGN CHOICE, unsafe (log 3): AX, BX, MEM[0] and MEM[1] are 0, where R104 says "any W-bit value".
DESIGN CHOICE (log 1, log 6, log 10): W = 8, no input presented, line index 0. -/
def State.reset : State :=
  { cfg := Config.vnpu
    ax := 0
    bx := 0
    mem0 := 0
    mem1 := 0
    halted := false
    status := .ok
    event := .none
    wAX := false
    wBX := false
    wMEM := false
    uninitRead := false
    lineIndex := 0
    inputs := [] }

end Sys2Proof.Machine
end

