-- ==== Sys2Proof/Machine/Operands.lean ====
section
/-! DEFINITION. Word conversion, register reads and the operand multiplexer. Nothing here changes hardware state
(20_memory.md R41, 30_encoding.md R65). -/

namespace Sys2Proof.Machine

/-- `trunc_N(r)`: the natural number below `2^N` congruent to `r` modulo `2^N` (00_scope.md R11). -/
def trunc (n : Nat) (r : Int) : Nat := (r % (2 : Int) ^ n).toNat

/-- `decimalToBits(r) = trunc_W(r)` (10_state.md R16; 90_conflicts.md C4 for a negative `r`). -/
def decimalToBits (width : Nat) (r : Int) : Word := trunc width r

/-- `bitsToDecimal(w) = w`: a Word is unsigned (10_state.md R17; 90_conflicts.md C1). -/
def bitsToDecimal (w : Word) : Nat := w

/-- The register a character names (10_state.md R18). -/
def regOf (ch : Byte) : Option Reg :=
  if ch = chA then some .a else if ch = chB then some .b else none

/-- The value of a register (00_scope.md R12, `x[r]`). -/
def readReg (r : Reg) (s : State) : Word :=
  match r with
  | .a => s.ax
  | .b => s.bx

/-- Whether a register has been written since reset (10_state.md R29). -/
def regWritten (r : Reg) (s : State) : Bool :=
  match r with
  | .a => s.wAX
  | .b => s.wBX

/-- What a read of a register leaves: the machine as it was, with UNINIT_READ recorded where the register is unwritten
(60_exceptions.md R101). DESIGN CHOICE, unsafe (log 4): the read goes on, with the value the register holds. -/
def noteRead (r : Reg) (s : State) : State :=
  { s with uninitRead := s.uninitRead || !regWritten r s }

/-- The four selections of the multiplexer (30_encoding.md R64). -/
inductive Selection where
  | digit (d : Nat)
  | reg (r : Reg)
  | err
deriving DecidableEq, Repr

/-- The value of a digit character, `code(ch) - 0x30` (R63). -/
def digitValue (ch : Byte) : Nat := ch.toNat - chZero.toNat

/-- The selection that a raw operand byte makes (R63, R64). -/
def select (ch : Byte) : Selection :=
  if isDigit ch then .digit (digitValue ch)
  else
    match regOf ch with
    | some r => .reg r
    | none => .err

/-- `resolve(ch)`, with `none` for RESOLVE_ERROR (R63). A digit is not truncated to W bits. -/
def resolve (ch : Byte) (s : State) : Option Nat :=
  match select ch with
  | .digit d => some d
  | .reg r => some (bitsToDecimal (readReg r s))
  | .err => none

/-- What resolving an operand leaves: a register selection is a read (R65, R101). -/
def noteResolve (ch : Byte) (s : State) : State :=
  match select ch with
  | .digit _ => s
  | .reg r => noteRead r s
  | .err => s

end Sys2Proof.Machine
end

