-- ==== Sys2Proof/Machine/Ops.lean ====
section
/-! DEFINITION. The named operations that change the state: register and bank writes, the outputs of a step, the error
effect, the stop request, reset, and the taking of an input. -/

namespace Sys2Proof.Machine

/-- `status <- st; emit(ev)` (00_scope.md R12). -/
def output (st : Status) (ev : Event) (s : State) : State :=
  { s with status := st, event := ev }

/-- `x[r] <- v` for a W-bit value `v`; the register counts as written (00_scope.md R12, 10_state.md R29). -/
def writeReg (r : Reg) (v : Word) (s : State) : State :=
  match r with
  | .a => { s with ax := v, wAX := true }
  | .b => { s with bx := v, wBX := true }

/-- `storeResult(r)`: the high W bits of `trunc_2W(r)` to MEM[0], the low W bits to MEM[1] (10_state.md R23). -/
def storeResult (r : Int) (s : State) : State :=
  { s with
    mem0 := trunc (2 * s.cfg.width) r / 2 ^ s.cfg.width
    mem1 := trunc (2 * s.cfg.width) r % 2 ^ s.cfg.width
    wMEM := true }

/-- The status code that reports an error kind (60_exceptions.md R87). -/
def errorStatus (k : ErrorKind) : Status :=
  match k with
  | .malformedInstruction => .errMalformed
  | .unresolvableOperand => .errUnresolvable
  | .invalidOperation => .errInvalid

/-- `raise`: the one error effect. The machine halts, reports the kind and emits DIAG, and writes nothing else (R88).
It is no trap (R95): nothing is saved, and there is no return from it but reset (R96). -/
def raise (k : ErrorKind) (s : State) : State :=
  { s with halted := true, status := errorStatus k, event := .diag }

/-- What the input Reset does (70_reset_and_hazards.md R103, R104): the state of `State.reset`, under the same build-time
parameters and with the same inputs still to come. `uninitRead` stays, since UNINIT_READ "is never cleared" (60_exceptions.md R101;
DEDUCED, log 5). It is also the only return from HALTED (R96). -/
def resetBlock (s : State) : State :=
  { State.reset with cfg := s.cfg, inputs := s.inputs, uninitRead := s.uninitRead }

/-- `halted <- 1; status <- HALT; emit(NONE)`: the effect of a stop request (60_exceptions.md R92) and of `.` (44_system.md R83). -/
def haltBlock (s : State) : State :=
  output .halt .none { s with halted := true }

/-- An input that is not accepted, because the block is HALTED (R97). -/
def idleInput (s : State) : State := output .idle .none s

/-- An empty line while RUNNING (30_encoding.md R54). -/
def ignoreLine (s : State) : State := output .ignored .none s

/-- The first input is taken off the list. -/
def dropInput (s : State) : State := { s with inputs := s.inputs.tail }

/-- The block takes a line while RUNNING: the ghost index advances by 1 (10_state.md R21). -/
def takeLine (s : State) : State :=
  { s with inputs := s.inputs.tail, lineIndex := s.lineIndex + 1 }

/-- The host duty that a line breaks, if any (30_encoding.md R50). Where a line breaks several, the first in the rule's
order is named. DESIGN CHOICE, safe (log 12). -/
def lineRefusal (lmax : Nat) (c : Line) : Option Refusal :=
  if lmax < c.length then some .lineTooLong
  else if c.contains chLF then some .lineFeedInLine
  else if c.contains chNul then some .nulInLine
  else none

end Sys2Proof.Machine
end

