-- ==== Sys2Proof/Machine/Arithmetic.lean ====
section
/-! DEFINITION. The instructions `+ - * /` (40_arithmetic.md). -/

namespace Sys2Proof.Machine

/-- The common arithmetic datapath (R70). `f` gives the exact result, or `none` where it raises InvalidOperation. Both operands
are read before anything is written (10_state.md R20). -/
def arith (f : Nat → Nat → Option Int) (x y : Byte) (s : State) : State :=
  match resolve x s with
  | none => raise .unresolvableOperand s
  | some a =>
    match resolve y s with
    | none => raise .unresolvableOperand (noteResolve x s)
    | some b =>
      match f a b with
      | none => raise .invalidOperation (noteResolve y (noteResolve x s))
      | some r =>
        output .ok .none
          (storeResult r (writeReg .a (decimalToBits s.cfg.width r) (noteResolve y (noteResolve x s))))

/-- `f` of `+` (R71). -/
def addResult (a b : Nat) : Option Int := some ((a : Int) + (b : Int))

/-- `f` of `-`, an integer that may be negative (R72). -/
def subResult (a b : Nat) : Option Int := some ((a : Int) - (b : Int))

/-- `f` of `*` (R73). -/
def mulResult (a b : Nat) : Option Int := some ((a : Int) * (b : Int))

/-- `f` of `/`, with the divisor check of R70: DIV_BY_ZERO where `b` is 0 (R74). -/
def divResult (a b : Nat) : Option Int := if b = 0 then none else some ((a / b : Nat) : Int)

/-- `+ x y` (R71). -/
def execAdd (x y : Byte) (s : State) : Host.Outcome State Fault Refusal :=
  .next (arith addResult x y s)

/-- `- x y` (R72). -/
def execSub (x y : Byte) (s : State) : Host.Outcome State Fault Refusal :=
  .next (arith subResult x y s)

/-- `* x y` (R73). -/
def execMul (x y : Byte) (s : State) : Host.Outcome State Fault Refusal :=
  .next (arith mulResult x y s)

/-- `/ x y` (R74). -/
def execDiv (x y : Byte) (s : State) : Host.Outcome State Fault Refusal :=
  .next (arith divResult x y s)

end Sys2Proof.Machine
end

