-- ==== Sys2Proof/Machine/Flags.lean ====
section
/-! DEFINITION. The block has no flags (10_state.md R27). The one Boolean it computes is the comparator's: it leaves
on the event output and is not stored (42_compare.md R77). -/

namespace Sys2Proof.Machine

/-- `key(ch)`: the code as 0..255, or as -128..127 where CHAR_SIGNED holds (R77, 00_scope.md R9). -/
def key (charSigned : Bool) (ch : Byte) : Int :=
  if charSigned then ch.toInt else (ch.toNat : Int)

/-- `rel` of `?` (R78). -/
def relEq (p q : Int) : Bool := p == q
/-- `rel` of `>` (R79). -/
def relGt (p q : Int) : Bool := decide (p > q)
/-- `rel` of `<` (R80). -/
def relLt (p q : Int) : Bool := decide (p < q)
/-- `rel` of `!` (R81). -/
def relNe (p q : Int) : Bool := p != q

/-- The comparator's answer on two raw operand bytes (R77). -/
def compareBytes (rel : Int → Int → Bool) (x y : Byte) (s : State) : Bool :=
  rel (key s.cfg.charSigned x) (key s.cfg.charSigned y)

end Sys2Proof.Machine
end

