-- ==== Sys2Proof/Machine/Compare.lean ====
section
/-! DEFINITION. The instructions `? > < !` (42_compare.md). They compare the raw operand bytes and read no register. -/

namespace Sys2Proof.Machine

/-- The common comparison datapath (R77): `emit(BOOL(rel(p, q))); status <- OK`. -/
def compareRaw (rel : Int → Int → Bool) (x y : Byte) (s : State) : State :=
  output .ok (.bool (compareBytes rel x y s)) s

/-- `? x y` (R78). -/
def execEq (x y : Byte) (s : State) : Host.Outcome State Fault Refusal :=
  .next (compareRaw relEq x y s)

/-- `> x y` (R79). -/
def execGt (x y : Byte) (s : State) : Host.Outcome State Fault Refusal :=
  .next (compareRaw relGt x y s)

/-- `< x y` (R80). -/
def execLt (x y : Byte) (s : State) : Host.Outcome State Fault Refusal :=
  .next (compareRaw relLt x y s)

/-- `! x y` (R81). -/
def execNe (x y : Byte) (s : State) : Host.Outcome State Fault Refusal :=
  .next (compareRaw relNe x y s)

end Sys2Proof.Machine
end

