-- ==== Sys2Proof/Machine/Move.lean ====
section
/-! DEFINITION. The instruction `M` (41_move.md). -/

namespace Sys2Proof.Machine

/-- Where `M` takes its value from (R76). -/
inductive MoveSource where
  | immediate (d : Nat)
  | register (r : Reg)
deriving DecidableEq, Repr

/-- The source of `M x y` for the target register `d`: a digit, or the other register (R76). -/
def moveSource (x : Byte) (d : Reg) : Option MoveSource :=
  if isDigit x then some (.immediate (digitValue x))
  else
    match regOf x with
    | some r => if r = d then none else some (.register r)
    | none => none

/-- `x[y] <- trunc_W(v); status <- OK; emit(NONE)` (R76). The memory bank is not written. -/
def moveTo (d : Reg) (v : Nat) (s : State) : State :=
  output .ok .none (writeReg d (decimalToBits s.cfg.width v) s)

/-- `M x y` (R76): the target is checked first, then the source; the read precedes the write. -/
def execMov (x y : Byte) (s : State) : Host.Outcome State Fault Refusal :=
  match regOf y with
  | none => .next (raise .invalidOperation s)
  | some d =>
    match moveSource x d with
    | none => .next (raise .invalidOperation s)
    | some (.immediate v) => .next (moveTo d v s)
    | some (.register r) => .next (moveTo d (bitsToDecimal (readReg r s)) (noteRead r s))

end Sys2Proof.Machine
end

