-- ==== Sys2Proof/Machine/System.lean ====
section
/-! DEFINITION. The instructions `@` (43_print.md), `.` and `H` (44_system.md). -/

namespace Sys2Proof.Machine

/-- `@ x`: the value of the register that `x` names, or the literal byte (43_print.md R82). -/
def execPrint (x : Byte) (s : State) : Host.Outcome State Fault Refusal :=
  match regOf x with
  | some r => .next (output .ok (.dec (readReg r s)) (noteRead r s))
  | none => .next (output .ok (.char x) s)

/-- `.` (44_system.md R83). -/
def execHalt (s : State) : Host.Outcome State Fault Refusal :=
  .next (haltBlock s)

/-- `H` (44_system.md R84): the help text itself is the host's. -/
def execHelp (s : State) : Host.Outcome State Fault Refusal :=
  .next (output .ok .help s)

end Sys2Proof.Machine
end

