-- ==== Sys2Proof/Machine/Dispatch.lean ====
section
/-! DEFINITION. One arm per instruction (the cases of the step function, 60_exceptions.md R86). -/

namespace Sys2Proof.Machine

def exec (i : Instr) (s : State) : Host.Outcome State Fault Refusal :=
  match i with
  | .add x y => Sys2Proof.Machine.execAdd x y s
  | .sub x y => Sys2Proof.Machine.execSub x y s
  | .mul x y => Sys2Proof.Machine.execMul x y s
  | .div x y => Sys2Proof.Machine.execDiv x y s
  | .mov x y => Sys2Proof.Machine.execMov x y s
  | .eq x y => Sys2Proof.Machine.execEq x y s
  | .gt x y => Sys2Proof.Machine.execGt x y s
  | .lt x y => Sys2Proof.Machine.execLt x y s
  | .ne x y => Sys2Proof.Machine.execNe x y s
  | .print x => Sys2Proof.Machine.execPrint x s
  | .halt => Sys2Proof.Machine.execHalt s
  | .help => Sys2Proof.Machine.execHelp s

end Sys2Proof.Machine
end

