-- ==== Sys2Proof/Machine/Engine.lean ====
section
/-! DEFINITION. The step of 60_exceptions.md R86: one input is taken and carried out. Step.lean calls it. -/

namespace Sys2Proof.Machine

/-- A line taken while RUNNING: refused where it breaks a host duty (R102), else decoded and carried out (R86). -/
def runLine (c : Line) (s : State) : Host.Outcome State Fault Refusal :=
  match lineRefusal s.cfg.lmax c with
  | some r => .refused r
  | none =>
    match decode c with
    | .ignored => .next (ignoreLine s)
    | .malformed _ => .next (raise .malformedInstruction s)
    | .instr i => exec i s

/-- One step of the block on the next input (R86). Reset comes before the HALTED check, and the HALTED check before any look
at the line, so that HALTED answers IDLE even on a line that breaks a host duty (DEDUCED from R86 and R97, log 11).
Where the host has presented no input, the block waits and nothing changes (70_reset_and_hazards.md R105; DESIGN CHOICE, log 6). -/
def engineStep (s : State) : Host.Outcome State Fault Refusal :=
  match s.inputs with
  | [] => .next s
  | .reset :: _ => .next (resetBlock (dropInput s))
  | .stop :: _ => if s.halted then .next (idleInput (dropInput s)) else .next (haltBlock (dropInput s))
  | .line c :: _ => if s.halted then .next (idleInput (dropInput s)) else runLine c (takeLine s)

/-- A table word presented as the block's next input, with the block RUNNING so that it accepts the line (log 7, log 17). -/
def presentTableWord (s : State) (nbits w : Nat) : State :=
  { s with halted := false, inputs := .line (tableLine nbits w) :: s.inputs }

end Sys2Proof.Machine
end

