-- ==== Sys2Proof/Machine/Step.lean ====
section
/-! DEFINITION. One step of the machine, and the placing of an instruction word as its next input. -/

namespace Sys2Proof.Machine

/-- One atomic step (60_exceptions.md R86). -/
def step (s : State) : Host.Outcome State Fault Refusal := engineStep s

/-- `s` with a table word as the next input of a RUNNING block, so that the very next step runs it (log 6, log 7, log 17). -/
def State.withFetchWord (s : State) (nbits w : Nat) : State := presentTableWord s nbits w

end Sys2Proof.Machine
end

