-- ==== Sys2Proof/Machine/Ports.lean ====
section
/-! DEFINITION. The ports of the block: the codes of the status and event outputs, the observation port, the input
port, and the priority of separate request wires. -/

namespace Sys2Proof.Machine

/-- The 3-bit status code (10_state.md R32). Code 7 is reserved. -/
def Status.code : Status → BitVec 3
  | .ok => 0
  | .halt => 1
  | .errMalformed => 2
  | .errUnresolvable => 3
  | .errInvalid => 4
  | .ignored => 5
  | .idle => 6

/-- The event kind (10_state.md R33). -/
def Event.kind : Event → BitVec 3
  | .none => 0
  | .dec _ => 1
  | .char _ => 2
  | .bool _ => 3
  | .help => 4
  | .diag => 5

/-- What a test bench sees after a step (10_state.md R34). -/
structure Observation where
  ax : Word
  bx : Word
  mem0 : Word
  mem1 : Word
  halted : Bool
deriving DecidableEq, Repr

/-- The observation port (10_state.md R34). -/
def observe (s : State) : Observation :=
  { ax := s.ax, bx := s.bx, mem0 := s.mem0, mem1 := s.mem1, halted := s.halted }

/-- The input that the port's `LEN` and `IR` stand for (30_encoding.md R51). -/
def portInput (lmax len ir : Nat) : Input := .line (lineOfPort lmax len ir)

/-- The request wires of an implementation that has separate ones (60_exceptions.md R94). -/
structure Wires where
  reset : Bool
  stop : Bool
  line : Option Line
deriving DecidableEq, Repr

/-- The one input the block takes where several wires are asserted together: "Reset takes precedence over Stop, and Stop over the
instruction" (R94). The loser is not executed. -/
def arbitrate (w : Wires) : Option Input :=
  if w.reset then some .reset else if w.stop then some .stop else w.line.map .line

/-- The host presents what its wires say, after the inputs already waiting (R31, R94). -/
def present (w : Wires) (s : State) : State :=
  { s with inputs := s.inputs ++ (arbitrate w).toList }

end Sys2Proof.Machine
end

