-- ==== Sys2Proof/Safety.lean ====
section
/-! DEFINITION. What the claims call a good state, a certified run, and two runs that look alike. -/

namespace Sys2Proof.Machine

/-- Registers and bank slots "always hold exactly W bits" (10_state.md R15). -/
abbrev State.wordsFit (s : State) : Prop :=
  s.ax < 2 ^ s.cfg.width ∧ s.bx < 2 ^ s.cfg.width ∧ s.mem0 < 2 ^ s.cfg.width ∧ s.mem1 < 2 ^ s.cfg.width

/-- Whether a status leaves the block HALTED (10_state.md R32). -/
def Status.isHalting : Status → Bool
  | .ok | .ignored => false
  | .halt | .errMalformed | .errUnresolvable | .errInvalid | .idle => true

/-- Whether a status is one of the three errors (60_exceptions.md R87). -/
def Status.isError : Status → Bool
  | .errMalformed | .errUnresolvable | .errInvalid => true
  | .ok | .halt | .ignored | .idle => false

/-- Which event a status may come with (10_state.md R32, R33): DIAG with exactly the errors, NONE with HALT, IGNORED and IDLE,
and with OK any event but DIAG, a DEC payload being a W-bit value. -/
def eventFits (width : Nat) : Status → Event → Bool
  | .ok, .dec v => v < 2 ^ width
  | .ok, .diag => false
  | .ok, _ => true
  | .halt, e => e = .none
  | .ignored, e => e = .none
  | .idle, e => e = .none
  | .errMalformed, e => e = .diag
  | .errUnresolvable, e => e = .diag
  | .errInvalid, e => e = .diag

/-- The invariant of the machine: words fit, the run state is the one the status reports, the event is one the status may come
with, and the bank is written only together with AX (10_state.md R15, R23, R32, R33). -/
abbrev State.Inv (s : State) : Prop :=
  s.wordsFit ∧ s.halted = s.status.isHalting ∧ eventFits s.cfg.width s.status s.event = true ∧
    (s.wMEM = true → s.wAX = true)

/-- No register has been read before it was written (60_exceptions.md R101): what such a run shows does not rest on the reset
values that the model chose (log 3, log 4). -/
abbrev State.certified (s : State) : Prop := s.uninitRead = false

/-- Two states that differ at most in the values of registers and of a bank that nothing has written since reset. -/
abbrev State.sameButUnwritten (s t : State) : Prop :=
  s.cfg = t.cfg ∧ s.halted = t.halted ∧ s.status = t.status ∧ s.event = t.event ∧
    s.wAX = t.wAX ∧ s.wBX = t.wBX ∧ s.wMEM = t.wMEM ∧ s.uninitRead = t.uninitRead ∧
    s.lineIndex = t.lineIndex ∧ s.inputs = t.inputs ∧
    (s.wAX = true → s.ax = t.ax) ∧ (s.wBX = true → s.bx = t.bx) ∧
    (s.wMEM = true → s.mem0 = t.mem0 ∧ s.mem1 = t.mem1)

/-- An input that keeps the host's duties (30_encoding.md R50). -/
def Input.dutiful (lmax : Nat) : Input → Bool
  | .line c => lineRefusal lmax c = none
  | .stop => true
  | .reset => true

/-- The state after a successful arithmetic instruction that leaves these values in AX, MEM[0] and MEM[1]
(40_arithmetic.md R70), with UNINIT_READ recorded as `u` (log 4). -/
def arithmeticDone (ax m0 m1 : Word) (u : Bool) (s : State) : State :=
  { s with
    ax := ax
    mem0 := m0
    mem1 := m1
    status := .ok
    event := .none
    wAX := true
    wMEM := true
    uninitRead := u }

/-- The state after an error: HALTED, the error's status, DIAG, and nothing else written (60_exceptions.md R88), with
UNINIT_READ recorded as `u` (log 4). -/
def failedWith (st : Status) (u : Bool) (s : State) : State :=
  { s with halted := true, status := st, event := .diag, uninitRead := u }

/-- An operand byte that is no digit and no register name (60_exceptions.md R90). -/
abbrev unresolvableByte (ch : Byte) : Prop :=
  ¬ (0x30 ≤ ch.toNat ∧ ch.toNat ≤ 0x39) ∧ ch ≠ 0x41#8 ∧ ch ≠ 0x42#8

/-- Whether reading the operand byte reads a register that nothing has written (60_exceptions.md R101). -/
def readsUnwritten (ch : Byte) (s : State) : Bool :=
  (ch = 0x41#8 && !s.wAX) || (ch = 0x42#8 && !s.wBX)

/-- Whether an instruction reads a register that nothing has written, at the points and in the order of 60_exceptions.md R93 and
R101: the operands of `+ - * /` until one does not resolve, the source of a register-pair `M`, and the operand of `@`. -/
def instrReadsUnwritten (i : Instr) (s : State) : Bool :=
  match i with
  | .add x y | .sub x y | .mul x y | .div x y =>
    readsUnwritten x s || (!decide (unresolvableByte x) && readsUnwritten y s)
  | .mov x y =>
    (x = 0x41#8 && y = 0x42#8 && !s.wAX) || (x = 0x42#8 && y = 0x41#8 && !s.wBX)
  | .print x => readsUnwritten x s
  | .eq _ _ | .gt _ _ | .lt _ _ | .ne _ _ | .halt | .help => false

end Sys2Proof.Machine
end

