-- ==== Sys2Proof/Certificates/Slice0/Obligations.lean ====
section
/-! DEFINITION. The statements for the provers. OBLIGATIONS.json lists them with the rules they rest on. -/

open Sys2Proof Sys2Proof.Machine

/-! ## Decoder, encoder and port layout -/

/-- A well-formed instruction, written out and followed by any whitespace, decodes to itself (30_encoding.md R53, R60, R68). -/
def Obligations.DecodeOfEncodeIsIdentity : Prop :=
  ∀ (i : Instr) (tail : Line), i.wf = true → allSpace tail = true → decode (encode i ++ tail) = .instr i

/-- A line decodes to an instruction only if it is that instruction written out, its operands non-whitespace, followed by
whitespace (R53, R60). -/
def Obligations.DecodedLineIsEncodingPlusWhitespace : Prop :=
  ∀ (c : Line) (i : Instr), decode c = .instr i →
    (∀ b ∈ i.operands, isSpace b = false) ∧ ∃ tail, allSpace tail = true ∧ c = encode i ++ tail

/-- A line of at most LMAX characters is read back from its LEN and IR, and its IR fits 8·LMAX bits (R51). -/
def Obligations.PortCarriesEveryLine : Prop :=
  ∀ (lmax : Nat) (c : Line), c.length ≤ lmax →
    irOfLine lmax c < 2 ^ (8 * lmax) ∧ lineOfPort lmax c.length (irOfLine lmax c) = c

/-- Byte k of the IR is character k of the line, and 0x00 past the line's end (R51, 20_memory.md R38). -/
def Obligations.IrByteIsLineCharacter : Prop :=
  ∀ (lmax : Nat) (c : Line) (k : Nat), c.length ≤ lmax → k < lmax →
    irByte lmax (irOfLine lmax c) k = c.getD k 0x00#8

/-- Words of spec/95_test_vectors.md, one for each family, decode as their rows say; the last two are MALFORMED. How a word is
numbered and its LEN found is the model's reading (log 7). -/
def Obligations.TestVectorWordsDecode : Prop :=
  decodeTableWord 48 0x2B2033203400 = some (.add 0x33#8 0x34#8) ∧
  decodeTableWord 48 0x2D2033204200 = some (.sub 0x33#8 0x42#8) ∧
  decodeTableWord 48 0x4D2035204100 = some (.mov 0x35#8 0x41#8) ∧
  decodeTableWord 48 0x3E2062204100 = some (.gt 0x62#8 0x41#8) ∧
  decodeTableWord 48 0x402041000000 = some (.print 0x41#8) ∧
  decodeTableWord 48 0x480D00000000 = some .help ∧
  decodeTableWord 48 0x2B2033203435 = none ∧
  decodeTableWord 48 0x2E7800000000 = none

/-- Exactly twelve opcode characters: two take no operand, one takes one, nine take two (R49). -/
def Obligations.OpcodeSetAndArities : Prop :=
  ∀ op : Byte, (shapeOf op).map Shape.arity =
    if op = 0x2E#8 ∨ op = 0x48#8 then some 0
    else if op = 0x40#8 then some 1
    else if op ∈ [0x2B#8, 0x2D#8, 0x2A#8, 0x2F#8, 0x4D#8, 0x3F#8, 0x3E#8, 0x3C#8, 0x21#8] then some 2
    else none

/-- A line whose first character is not one of the twelve opcodes is MALFORMED, and a RUNNING block that takes it halts
with the malformed-instruction diagnostic (R55). -/
def Obligations.UnknownOpcodeHaltsMalformed : Prop :=
  ∀ (op : Byte) (rest : Line) (s : State) (more : List Input),
    op ∉ [0x2B#8, 0x2D#8, 0x2A#8, 0x2F#8, 0x4D#8, 0x3F#8, 0x3E#8, 0x3C#8, 0x21#8, 0x40#8, 0x2E#8, 0x48#8] →
    (∃ w, decode (op :: rest) = .malformed w) ∧
    (s.halted = false → s.inputs = .line (op :: rest) :: more → lineRefusal s.cfg.lmax (op :: rest) = none →
      step s = .next (failedWith .errMalformed s.uninitRead
        { s with inputs := more, lineIndex := s.lineIndex + 1 }))

/-- A line decodes to `.` (to `H`) exactly when it is that character followed by whitespace only, and no other instruction that a
line decodes to is without operands (R56). -/
def Obligations.ZeroOperandFormNeedsOnlyWhitespace : Prop :=
  ∀ c : Line,
    (decode c = .instr .halt ↔ ∃ tail, c = 0x2E#8 :: tail ∧ ∀ ch ∈ tail, isSpace ch = true) ∧
    (decode c = .instr .help ↔ ∃ tail, c = 0x48#8 :: tail ∧ ∀ ch ∈ tail, isSpace ch = true) ∧
    (∀ i, decode c = .instr i → i.operands = [] → i = .halt ∨ i = .help)

/-- A `@` line decodes to `@ x` exactly in form U, and is MALFORMED otherwise (R57). -/
def Obligations.OneOperandFormExactly : Prop :=
  ∀ rest : Line,
    (∀ x, decode (0x40#8 :: rest) = .instr (.print x) ↔
      ∃ tail, rest = 0x20#8 :: x :: tail ∧ isSpace x = false ∧ ∀ ch ∈ tail, isSpace ch = true) ∧
    ((¬ ∃ x, decode (0x40#8 :: rest) = .instr (.print x)) → ∃ w, decode (0x40#8 :: rest) = .malformed w)

/-- A two-operand line decodes exactly in form B, and is MALFORMED otherwise (R58). -/
def Obligations.TwoOperandFormExactly : Prop :=
  ∀ (op : Byte) (mk : Byte → Byte → Instr) (rest : Line),
    (op, mk) ∈ [(0x2B#8, Instr.add), (0x2D#8, Instr.sub), (0x2A#8, Instr.mul), (0x2F#8, Instr.div),
      (0x4D#8, Instr.mov), (0x3F#8, Instr.eq), (0x3E#8, Instr.gt), (0x3C#8, Instr.lt), (0x21#8, Instr.ne)] →
    (∀ x y, decode (op :: rest) = .instr (mk x y) ↔
      ∃ tail, rest = 0x20#8 :: x :: 0x20#8 :: y :: tail ∧ isSpace x = false ∧ isSpace y = false ∧
        ∀ ch ∈ tail, isSpace ch = true) ∧
    ((¬ ∃ x y, decode (op :: rest) = .instr (mk x y)) → ∃ w, decode (op :: rest) = .malformed w)

/-- MALFORMED_INSTRUCTION is raised when the decoder answers MALFORMED, by no step that takes any other input, and the decoder
answers MALFORMED in the cases R89 lists and no other. -/
def Obligations.MalformedCasesExactly : Prop :=
  (∀ (s : State) (c : Line) (more : List Input) (w : Malformed),
    s.halted = false → s.inputs = .line c :: more → lineRefusal s.cfg.lmax c = none → decode c = .malformed w →
      step s = .next (failedWith .errMalformed s.uninitRead
        { s with inputs := more, lineIndex := s.lineIndex + 1 })) ∧
  (∀ s t : State, s.inputs ≠ [] → step s = .next t →
    (t.status = .errMalformed ↔
      s.halted = false ∧ ∃ c more w, s.inputs = .line c :: more ∧ decode c = .malformed w)) ∧
  ∀ c : Line, (∃ w, decode c = .malformed w) ↔
    ∃ op rest, c = op :: rest ∧
      ((op ∉ [0x2B#8, 0x2D#8, 0x2A#8, 0x2F#8, 0x4D#8, 0x3F#8, 0x3E#8, 0x3C#8, 0x21#8, 0x40#8, 0x2E#8, 0x48#8]) ∨
       (op = 0x40#8 ∧ ¬ ∃ x tail, rest = 0x20#8 :: x :: tail ∧ isSpace x = false ∧ allSpace tail = true) ∨
       (op ∈ [0x2B#8, 0x2D#8, 0x2A#8, 0x2F#8, 0x4D#8, 0x3F#8, 0x3E#8, 0x3C#8, 0x21#8] ∧
         ¬ ∃ x y tail, rest = 0x20#8 :: x :: 0x20#8 :: y :: tail ∧ isSpace x = false ∧ isSpace y = false ∧
           allSpace tail = true) ∨
       ((op = 0x2E#8 ∨ op = 0x48#8) ∧ ¬ allSpace rest = true))

/-! ## Words, the multiplexer and the bank -/

/-- `trunc_N(r)` is the one number below `2^N` congruent to `r` modulo `2^N` (00_scope.md R11). -/
def Obligations.TruncIsTheUniqueResidue : Prop :=
  ∀ (n t : Nat) (r : Int), trunc n r = t ↔ t < 2 ^ n ∧ (2 : Int) ^ n ∣ (t : Int) - r

/-- `bitsToDecimal` is the sum of bit[i]·2^(W-1-i) over the source's MSB-first index, and so the value itself (10_state.md R17). -/
def Obligations.WordReadsAsSumOfBits : Prop :=
  ∀ (width w : Nat), w < 2 ^ width →
    bitsToDecimal w = ((List.range width).map fun i => (w.testBit (width - 1 - i)).toNat * 2 ^ (width - 1 - i)).sum ∧
    bitsToDecimal w = w

/-- `resolve` on every byte: a digit's value, AX, BX, or RESOLVE_ERROR (30_encoding.md R63). -/
def Obligations.ResolveOfEveryByte : Prop :=
  ∀ (ch : Byte) (s : State), resolve ch s =
    if 0x30 ≤ ch.toNat ∧ ch.toNat ≤ 0x39 then some (ch.toNat - 0x30)
    else if ch = 0x41#8 then some s.ax
    else if ch = 0x42#8 then some s.bx
    else none

/-- `storeResult(r)` leaves trunc_2W(r) across the bank, high half in MEM[0]; no instruction but a successful arithmetic one changes
the bank, and each of those leaves `storeResult` of its own exact result there (10_state.md R23). -/
def Obligations.StoreResultSplitsAcrossBank : Prop :=
  (∀ (r : Int) (s : State), ∃ m0 m1,
    storeResult r s = { s with mem0 := m0, mem1 := m1, wMEM := true } ∧
    m0 < 2 ^ s.cfg.width ∧ m1 < 2 ^ s.cfg.width ∧ m0 * 2 ^ s.cfg.width + m1 = trunc (2 * s.cfg.width) r) ∧
  (∀ (i : Instr) (s t : State), exec i s = .next t → (t.mem0 ≠ s.mem0 ∨ t.mem1 ≠ s.mem1 ∨ t.wMEM ≠ s.wMEM) →
    t.status = .ok ∧ ∃ x y, i = .add x y ∨ i = .sub x y ∨ i = .mul x y ∨ i = .div x y) ∧
  (∀ (x y : Byte) (s : State) (a b : Nat) (i : Instr) (r : Int),
    resolve x s = some a → resolve y s = some b → (i = .div x y → b ≠ 0) →
    (i, r) ∈ [(Instr.add x y, (a : Int) + b), (.sub x y, (a : Int) - b), (.mul x y, (a : Int) * b),
      (.div x y, ((a / b : Nat) : Int))] →
    ∃ t, exec i s = .next t ∧ t.mem0 = (storeResult r s).mem0 ∧ t.mem1 = (storeResult r s).mem1 ∧ t.wMEM = true)

/-! ## Arithmetic -/

/-- `+ x y` (40_arithmetic.md R71). -/
def Obligations.AddMeaning : Prop :=
  ∀ (x y : Byte) (s : State),
    (∀ a b, resolve x s = some a → resolve y s = some b →
      (∃ u, exec (.add x y) s = .next (arithmeticDone ((a + b) % 2 ^ s.cfg.width)
        ((a + b) / 2 ^ s.cfg.width % 2 ^ s.cfg.width) ((a + b) % 2 ^ s.cfg.width) u s)) ∧
      (4 ≤ s.cfg.width → s.wordsFit →
        a + b ≤ 2 ^ (s.cfg.width + 1) - 2 ∧
          ((a + b) / 2 ^ s.cfg.width % 2 ^ s.cfg.width = 0 ∨ (a + b) / 2 ^ s.cfg.width % 2 ^ s.cfg.width = 1))) ∧
    ((resolve x s = none ∨ resolve y s = none) →
      ∃ u, exec (.add x y) s = .next (failedWith .errUnresolvable u s)) ∧
    (operandOk x = true → operandOk y = true →
      decode [0x2B#8, 0x20#8, x, 0x20#8, y] = .instr (.add x y))

/-- `- x y`: AX and the bank hold a - b modulo 2^W and modulo 2^(2W), a negative difference wrapping (R72). -/
def Obligations.SubMeaning : Prop :=
  ∀ (x y : Byte) (s : State),
    (∀ a b, resolve x s = some a → resolve y s = some b →
      ∃ ax m0 u, exec (.sub x y) s = .next (arithmeticDone ax m0 ax u s) ∧
        ax < 2 ^ s.cfg.width ∧ m0 < 2 ^ s.cfg.width ∧
        (2 : Int) ^ s.cfg.width ∣ (ax : Int) - ((a : Int) - b) ∧
        (2 : Int) ^ (2 * s.cfg.width) ∣ ((m0 * 2 ^ s.cfg.width + ax : Nat) : Int) - ((a : Int) - b)) ∧
    ((resolve x s = none ∨ resolve y s = none) →
      ∃ u, exec (.sub x y) s = .next (failedWith .errUnresolvable u s))

/-- `- x y` for W >= 4: without a borrow MEM[0] is 0; with a borrow AX is 2^W - (b - a) and MEM[0] is all ones (R72). -/
def Obligations.SubBorrowPattern : Prop :=
  ∀ (x y : Byte) (s : State) (a b : Nat), 4 ≤ s.cfg.width → s.wordsFit →
    resolve x s = some a → resolve y s = some b →
    (b ≤ a → ∃ u, exec (.sub x y) s = .next (arithmeticDone (a - b) 0 (a - b) u s)) ∧
    (a < b → ∃ u, exec (.sub x y) s =
      .next (arithmeticDone (2 ^ s.cfg.width - (b - a)) (2 ^ s.cfg.width - 1) (2 ^ s.cfg.width - (b - a)) u s))

/-- `* x y`: for W >= 4 the bank holds the full product (R73). -/
def Obligations.MulMeaning : Prop :=
  ∀ (x y : Byte) (s : State),
    (∀ a b, resolve x s = some a → resolve y s = some b →
      (∃ u, exec (.mul x y) s = .next (arithmeticDone (a * b % 2 ^ s.cfg.width)
        (a * b / 2 ^ s.cfg.width % 2 ^ s.cfg.width) (a * b % 2 ^ s.cfg.width) u s)) ∧
      (4 ≤ s.cfg.width → s.wordsFit →
        a * b < 2 ^ (2 * s.cfg.width) ∧
          a * b / 2 ^ s.cfg.width % 2 ^ s.cfg.width = a * b / 2 ^ s.cfg.width)) ∧
    ((resolve x s = none ∨ resolve y s = none) →
      ∃ u, exec (.mul x y) s = .next (failedWith .errUnresolvable u s)) ∧
    (operandOk x = true → operandOk y = true →
      decode [0x2A#8, 0x20#8, x, 0x20#8, y] = .instr (.mul x y))

/-- `/ x y`: the quotient, or INVALID_OPERATION on a zero divisor; for W >= 4 the quotient fits and MEM[0] is 0 (R74). -/
def Obligations.DivMeaning : Prop :=
  ∀ (x y : Byte) (s : State),
    (∀ a b, resolve x s = some a → resolve y s = some b → b ≠ 0 →
      (∃ u, exec (.div x y) s = .next (arithmeticDone (a / b % 2 ^ s.cfg.width)
        (a / b / 2 ^ s.cfg.width % 2 ^ s.cfg.width) (a / b % 2 ^ s.cfg.width) u s)) ∧
      (4 ≤ s.cfg.width → s.wordsFit → a / b % 2 ^ s.cfg.width = a / b ∧ a / b / 2 ^ s.cfg.width = 0)) ∧
    (∀ a, resolve x s = some a → resolve y s = some 0 →
      ∃ u, exec (.div x y) s = .next (failedWith .errInvalid u s)) ∧
    ((resolve x s = none ∨ resolve y s = none) →
      ∃ u, exec (.div x y) s = .next (failedWith .errUnresolvable u s))

/-- The frame of `+ - * /`: BX, the configuration, the line index and the inputs stay, and an error leaves AX and the bank as
they were (40_arithmetic.md R70, 10_state.md R19). -/
def Obligations.ArithmeticFrame : Prop :=
  ∀ (x y : Byte) (s t : State) (i : Instr),
    (i = .add x y ∨ i = .sub x y ∨ i = .mul x y ∨ i = .div x y) → exec i s = .next t →
    t.cfg = s.cfg ∧ t.bx = s.bx ∧ t.wBX = s.wBX ∧ t.lineIndex = s.lineIndex ∧ t.inputs = s.inputs ∧
    ((t.status = .ok ∧ t.event = .none ∧ t.halted = s.halted ∧ t.wAX = true ∧ t.wMEM = true ∧ t.ax = t.mem1) ∨
     ((t.status = .errUnresolvable ∨ t.status = .errInvalid) ∧ t.event = .diag ∧ t.halted = true ∧
       t.ax = s.ax ∧ t.wAX = s.wAX ∧ t.mem0 = s.mem0 ∧ t.mem1 = s.mem1 ∧ t.wMEM = s.wMEM))

/-! ## Move -/

/-- `M d A` and `M d B` load a digit, truncated to W bits, and change no other register and no slot (41_move.md R76). -/
def Obligations.MovLoadsDigit : Prop :=
  ∀ (x : Byte) (s : State), 0x30 ≤ x.toNat ∧ x.toNat ≤ 0x39 →
    exec (.mov x 0x41#8) s = .next { s with ax := (x.toNat - 0x30) % 2 ^ s.cfg.width, wAX := true, status := .ok, event := .none } ∧
    exec (.mov x 0x42#8) s = .next { s with bx := (x.toNat - 0x30) % 2 ^ s.cfg.width, wBX := true, status := .ok, event := .none }

/-- `M B A` and `M A B` copy the other register, and leave the source and the bank as they were (R76). -/
def Obligations.MovCopiesOtherRegister : Prop :=
  ∀ s : State,
    (∃ u, exec (.mov 0x42#8 0x41#8) s = .next { s with ax := s.bx % 2 ^ s.cfg.width, wAX := true, status := .ok, event := .none, uninitRead := u }) ∧
    (∃ u, exec (.mov 0x41#8 0x42#8) s = .next { s with bx := s.ax % 2 ^ s.cfg.width, wBX := true, status := .ok, event := .none, uninitRead := u }) ∧
    (s.wordsFit → s.bx % 2 ^ s.cfg.width = s.bx ∧ s.ax % 2 ^ s.cfg.width = s.ax)

/-- Every other `M` is INVALID_OPERATION: a target that is no register, a source that is neither a digit nor a register, or a
source equal to the target (R76, 60_exceptions.md R91). -/
def Obligations.MovRejectsOtherForms : Prop :=
  ∀ (x y : Byte) (s : State),
    ((y ≠ 0x41#8 ∧ y ≠ 0x42#8) ∨ unresolvableByte x ∨ x = y) →
    exec (.mov x y) s = .next (failedWith .errInvalid s.uninitRead s)

/-- The frame of `M`: the bank, the configuration, the line index and the inputs stay; AX is written only for target A and BX only
for target B; a failed `M` writes neither (R76, 10_state.md R19). -/
def Obligations.MovFrame : Prop :=
  ∀ (x y : Byte) (s t : State), exec (.mov x y) s = .next t →
    t.cfg = s.cfg ∧ t.mem0 = s.mem0 ∧ t.mem1 = s.mem1 ∧ t.wMEM = s.wMEM ∧ t.lineIndex = s.lineIndex ∧
    t.inputs = s.inputs ∧
    (y ≠ 0x41#8 ∨ t.status ≠ .ok → t.ax = s.ax ∧ t.wAX = s.wAX) ∧
    (y ≠ 0x42#8 ∨ t.status ≠ .ok → t.bx = s.bx ∧ t.wBX = s.wBX) ∧
    ((t.status = .ok ∧ t.event = .none ∧ t.halted = s.halted) ∨
     (t.status = .errInvalid ∧ t.event = .diag ∧ t.halted = true))

/-! ## Comparisons -/

/-- `? x y` emits whether the raw characters are equal and changes no state, and is the line `? x y` (42_compare.md R78). -/
def Obligations.EqComparesRawCharacters : Prop :=
  ∀ (x y : Byte) (s : State),
    exec (.eq x y) s = .next { s with status := .ok, event := .bool (decide (x = y)) } ∧
    (operandOk x = true → operandOk y = true → decode [0x3F#8, 0x20#8, x, 0x20#8, y] = .instr (.eq x y))

/-- `> x y` emits whether the code of x is greater (R79), as an unsigned code unless CHAR_SIGNED (00_scope.md R9). -/
def Obligations.GtComparesRawCharacters : Prop :=
  ∀ (x y : Byte) (s : State),
    exec (.gt x y) s = .next { s with
      status := .ok
      event := .bool (if s.cfg.charSigned then decide (y.toInt < x.toInt) else decide (y.toNat < x.toNat)) } ∧
    (operandOk x = true → operandOk y = true → decode [0x3E#8, 0x20#8, x, 0x20#8, y] = .instr (.gt x y))

/-- `< x y` emits whether the code of x is less, and equals `> y x` (R80). -/
def Obligations.LtComparesRawCharacters : Prop :=
  ∀ (x y : Byte) (s : State),
    exec (.lt x y) s = .next { s with
      status := .ok
      event := .bool (if s.cfg.charSigned then decide (x.toInt < y.toInt) else decide (x.toNat < y.toNat)) } ∧
    exec (.lt x y) s = exec (.gt y x) s ∧
    (operandOk x = true → operandOk y = true → decode [0x3C#8, 0x20#8, x, 0x20#8, y] = .instr (.lt x y))

/-- `! x y` emits whether the raw characters differ, the negation of `? x y` (R81). -/
def Obligations.NeComparesRawCharacters : Prop :=
  ∀ (x y : Byte) (s : State),
    exec (.ne x y) s = .next { s with status := .ok, event := .bool (!decide (x = y)) } ∧
    (∀ v, exec (.eq x y) s = .next { s with status := .ok, event := .bool v } →
      exec (.ne x y) s = .next { s with status := .ok, event := .bool (!v) }) ∧
    (operandOk x = true → operandOk y = true → decode [0x21#8, 0x20#8, x, 0x20#8, y] = .instr (.ne x y))

/-- The two readings of a character code agree when both codes are below 0x80 (R77). -/
def Obligations.CharSignedIrrelevantBelow80 : Prop :=
  ∀ (x y : Byte) (s : State) (i : Instr), x.toNat < 0x80 → y.toNat < 0x80 →
    (i = .eq x y ∨ i = .gt x y ∨ i = .lt x y ∨ i = .ne x y) →
    ∃ v, exec i { s with cfg := { s.cfg with charSigned := false } } =
        .next { s with cfg := { s.cfg with charSigned := false }, status := .ok, event := .bool v } ∧
      exec i { s with cfg := { s.cfg with charSigned := true } } =
        .next { s with cfg := { s.cfg with charSigned := true }, status := .ok, event := .bool v }

/-! ## Print, halt and help -/

/-- `@ x` emits the value of the register x names, or the character x, and writes no hardware state (43_print.md R82). -/
def Obligations.PrintMeaning : Prop :=
  ∀ (x : Byte) (s : State),
    ∃ u, exec (.print x) s = .next { s with
      status := .ok
      event := if x = 0x41#8 then .dec s.ax else if x = 0x42#8 then .dec s.bx else .char x
      uninitRead := u }

/-- `.` sets `halted`, reports HALT and writes nothing else; its line is `.` and whitespace only, any other `.` line halts with
ERR_MALFORMED, and after it no instruction is accepted (44_system.md R83). -/
def Obligations.HaltMeaning : Prop :=
  (∀ s : State, exec .halt s = .next { s with halted := true, status := .halt, event := .none }) ∧
  (∀ tail : Line, allSpace tail = true → decode (0x2E#8 :: tail) = .instr .halt) ∧
  (∀ (s : State) (tail : Line) (more : List Input), allSpace tail = false → s.halted = false →
    s.inputs = .line (0x2E#8 :: tail) :: more → lineRefusal s.cfg.lmax (0x2E#8 :: tail) = none →
      step s = .next (failedWith .errMalformed s.uninitRead
        { s with inputs := more, lineIndex := s.lineIndex + 1 })) ∧
  (∀ (s t : State) (c : Line) (more : List Input), exec .halt s = .next t → t.inputs = .line c :: more →
    lineRefusal t.cfg.lmax c = none →
    step t = .next { t with inputs := more, status := .idle, event := .none })

/-- `H` emits HELP and changes no state; its line is `H` and whitespace only (44_system.md R84). -/
def Obligations.HelpMeaning : Prop :=
  (∀ s : State, exec .help s = .next { s with status := .ok, event := .help }) ∧
  (∀ tail : Line, allSpace tail = true → decode (0x48#8 :: tail) = .instr .help) ∧
  (∀ tail : Line, allSpace tail = false → ∃ w, decode (0x48#8 :: tail) = .malformed w)

/-- The frame of the comparisons, `@`, `.` and `H`: they write no register, no slot and no ghost bit of one, and only `.` writes
`halted` (10_state.md R19). -/
def Obligations.NonWritingInstructionsFrame : Prop :=
  ∀ (x y : Byte) (s t : State) (i : Instr),
    i ∈ [Instr.eq x y, .gt x y, .lt x y, .ne x y, .print x, .halt, .help] → exec i s = .next t →
    t.cfg = s.cfg ∧ t.ax = s.ax ∧ t.bx = s.bx ∧ t.mem0 = s.mem0 ∧ t.mem1 = s.mem1 ∧ t.wAX = s.wAX ∧
    t.wBX = s.wBX ∧ t.wMEM = s.wMEM ∧ t.lineIndex = s.lineIndex ∧ t.inputs = s.inputs ∧
    (i ≠ .halt → t.halted = s.halted ∧ t.status = .ok) ∧ (i ≠ .print x → t.uninitRead = s.uninitRead)

/-! ## Errors -/

/-- UNRESOLVABLE_OPERAND is raised by `+ - * /` when an operand byte is no digit and no register name, and by nothing else
(60_exceptions.md R90). -/
def Obligations.UnresolvableOperandRaisers : Prop :=
  ∀ (i : Instr) (s t : State), exec i s = .next t →
    (t.status = .errUnresolvable ↔
      ∃ x y, (i = .add x y ∨ i = .sub x y ∨ i = .mul x y ∨ i = .div x y) ∧ (unresolvableByte x ∨ unresolvableByte y))

/-- INVALID_OPERATION is raised by `/` on a divisor that resolves to 0 and by `M` outside its forms, and by nothing else (R91). -/
def Obligations.InvalidOperationRaisers : Prop :=
  ∀ (i : Instr) (s t : State), exec i s = .next t →
    (t.status = .errInvalid ↔
      (∃ x y, i = .div x y ∧ ¬ unresolvableByte x ∧ resolve y s = some 0) ∨
      (∃ x y, i = .mov x y ∧ ((y ≠ 0x41#8 ∧ y ≠ 0x42#8) ∨ unresolvableByte x ∨ x = y)))

/-- After an instruction that raised an error, the machine is as it was but for `halted` and the outputs; the record of UNINIT_READ
is the model's own (R88, R95; log 4). -/
def Obligations.ErrorsArePrecise : Prop :=
  ∀ (i : Instr) (s t : State), exec i s = .next t → t.status.isError = true →
    t = failedWith t.status t.uninitRead s

/-- Every instruction leaves a next state in every state: none faults and none is refused (R86). -/
def Obligations.EveryInstructionCompletes : Prop :=
  ∀ (i : Instr) (s : State), ∃ t, exec i s = .next t

/-- The model's choice (log 4): where 60_exceptions.md R101 has the model fault UNINIT_READ, this model records it at the read and
goes on, and nothing else records it. -/
def Obligations.UninitReadIsRecorded : Prop :=
  ∀ (i : Instr) (s t : State), exec i s = .next t →
    t.uninitRead = (s.uninitRead || instrReadsUnwritten i s)

/-! ## The step -/

/-- A RUNNING block that takes a dutiful line which decodes to an instruction runs it, after taking the line off the inputs and
advancing the line index (60_exceptions.md R86, 10_state.md R21). -/
def Obligations.StepRunsDecodedInstruction : Prop :=
  ∀ (s : State) (c : Line) (more : List Input) (i : Instr),
    s.halted = false → s.inputs = .line c :: more → lineRefusal s.cfg.lmax c = none → decode c = .instr i →
    step s = exec i { s with inputs := more, lineIndex := s.lineIndex + 1 }

/-- An empty line while RUNNING changes no state and answers IGNORED (30_encoding.md R54). -/
def Obligations.EmptyLineIsIgnored : Prop :=
  ∀ (s : State) (more : List Input), s.halted = false → s.inputs = .line [] :: more →
    step s = .next { s with inputs := more, lineIndex := s.lineIndex + 1, status := .ignored, event := .none }

/-- A stop request while RUNNING halts with status HALT and changes nothing else (60_exceptions.md R92). -/
def Obligations.StopRequestHalts : Prop :=
  ∀ (s : State) (more : List Input), s.halted = false → s.inputs = .stop :: more →
    step s = .next { s with inputs := more, halted := true, status := .halt, event := .none }

/-- While HALTED every input but Reset answers IDLE and changes nothing (R97). On a line that breaks a host duty this is the model's
reading of R86 and R97 (log 11). -/
def Obligations.HaltedInputsAreIdle : Prop :=
  ∀ (s : State) (inp : Input) (more : List Input), s.halted = true → s.inputs = inp :: more → inp ≠ .reset →
    step s = .next { s with inputs := more, status := .idle, event := .none }

/-- Reset leaves the block RUNNING, with the ghost bits clear, status OK and event NONE, and W-bit values in AX, BX and MEM
(70_reset_and_hazards.md R103, R104). That the record of UNINIT_READ stays is the model's reading of R101 (log 5). -/
def Obligations.ResetInputStartsNewRun : Prop :=
  ∀ (s : State) (more : List Input), s.inputs = .reset :: more →
    ∃ t, step s = .next t ∧ t.halted = false ∧ t.status = .ok ∧ t.event = .none ∧ t.wAX = false ∧ t.wBX = false ∧
      t.wMEM = false ∧ t.wordsFit ∧ t.cfg = s.cfg ∧ t.inputs = more ∧ t.uninitRead = s.uninitRead

/-- A step refuses exactly when a RUNNING block is given a line that breaks a host duty, and it says which duties there are
(30_encoding.md R50, 60_exceptions.md R102). That a HALTED block does not refuse such a line is the model's reading of R86 and R97
(log 11). -/
def Obligations.StepRefusesExactlyUndutifulLines : Prop :=
  (∀ s : State, (∃ r, step s = .refused r) ↔
    s.halted = false ∧ ∃ c more, s.inputs = .line c :: more ∧ lineRefusal s.cfg.lmax c ≠ none) ∧
  (∀ (lmax : Nat) (c : Line), lineRefusal lmax c ≠ none ↔ lmax < c.length ∨ 0x0A#8 ∈ c ∨ 0x00#8 ∈ c)

/-- The step is total on every input that keeps the host duties (R86). That a block with no input waits is the model's choice
(log 6). -/
def Obligations.StepTotalOnDutifulInputs : Prop :=
  ∀ s : State, (∀ inp ∈ s.inputs.head?, inp.dutiful s.cfg.lmax = true) → ∃ t, step s = .next t

/-- A step takes exactly one input, where one is waiting, and keeps the build-time parameters, and the line index advances by 1 on a
line taken while RUNNING (10_state.md R21, R31). That a step with no input waiting takes none and answers a next state is the model's
choice (log 6), and so is that the index starts again at 0 on Reset (log 10). -/
def Obligations.StepTakesOneInput : Prop :=
  ∀ s t : State, step s = .next t →
    t.cfg = s.cfg ∧ t.inputs = s.inputs.tail ∧
    t.lineIndex = match s.inputs with
      | .line _ :: _ => if s.halted then s.lineIndex else s.lineIndex + 1
      | .reset :: _ => 0
      | _ => s.lineIndex

/-- A RUNNING block becomes HALTED only by a stop request, by a line that decodes to `.`, or by an error (10_state.md R25), and a
HALTED block becomes RUNNING only by Reset. -/
def Obligations.OnlyTheseStepsChangeRunState : Prop :=
  ∀ s t : State, step s = .next t →
    (s.halted = false → t.halted = true →
      (∃ more, s.inputs = .stop :: more) ∨ t.status.isError = true ∨
      ∃ c more, s.inputs = .line c :: more ∧ decode c = .instr .halt) ∧
    (s.halted = true → t.halted = false → ∃ more, s.inputs = .reset :: more)

/-- Where separate wires are asserted together, Reset wins over Stop and Stop over the line (60_exceptions.md R94). -/
def Obligations.WirePriority : Prop :=
  ∀ (w : Wires),
    (w.reset = true → arbitrate w = some .reset) ∧
    (w.reset = false → w.stop = true → arbitrate w = some .stop) ∧
    (w.reset = false → w.stop = false → ∀ c, w.line = some c → arbitrate w = some (.line c)) ∧
    (w.reset = false → w.stop = false → w.line = none → arbitrate w = none)

/-- The status codes are 0 to 6 and the event kinds 0 to 5 in the order of their tables, and status code 7 is never produced
(10_state.md R32, R33). -/
def Obligations.StatusAndEventCodeTables : Prop :=
  Status.code .ok = 0#3 ∧ Status.code .halt = 1#3 ∧ Status.code .errMalformed = 2#3 ∧
  Status.code .errUnresolvable = 3#3 ∧ Status.code .errInvalid = 4#3 ∧ Status.code .ignored = 5#3 ∧
  Status.code .idle = 6#3 ∧ (∀ st : Status, Status.code st ≠ 7#3) ∧
  Event.kind .none = 0#3 ∧ (∀ v, Event.kind (.dec v) = 1#3) ∧ (∀ c, Event.kind (.char c) = 2#3) ∧
  (∀ b, Event.kind (.bool b) = 3#3) ∧ Event.kind .help = 4#3 ∧ Event.kind .diag = 5#3

/-! ## Invariants and whole-machine rules -/

/-- The machine after reset meets the invariant, is RUNNING and certified (70_reset_and_hazards.md R104), and its configuration, W = 8
by the model's choice (log 1), is a legal one. -/
def Obligations.ResetStateMeetsInv : Prop :=
  State.reset.Inv ∧ State.reset.halted = false ∧ State.reset.status = .ok ∧ State.reset.event = .none ∧
  State.reset.wAX = false ∧ State.reset.wBX = false ∧ State.reset.wMEM = false ∧ State.reset.certified ∧
  State.reset.cfg.wf

/-- Every step keeps the invariant: words fit W bits, the run state is the one the status reports, the event is one the status may
come with, and the bank is written only with AX (10_state.md R15, R23, R32, R33). -/
def Obligations.StepKeepsInv : Prop :=
  ∀ s t : State, s.Inv → step s = .next t → t.Inv

/-- While no Reset is presented, a HALTED block stays HALTED through any number of steps, none of which stops, and keeps every
register and slot (60_exceptions.md R96, R97, R100). That a step with no input changes nothing, and that a line which breaks a host
duty is IDLE too, is the model's reading (log 6, log 11). -/
def Obligations.HaltedBlockStaysUntilReset : Prop :=
  ∀ (n : Nat) (s : State), s.halted = true → Input.reset ∉ s.inputs →
    ∃ t, Host.Core.run Sys2Proof.core n s = .next t ∧ t.halted = true ∧ observe t = observe s ∧
      t.wAX = s.wAX ∧ t.wBX = s.wBX ∧ t.wMEM = s.wMEM ∧ t.lineIndex = s.lineIndex

/-- One step that leaves the run certified shows nothing of the values of unwritten registers and of an unwritten bank (R101, R104,
70_reset_and_hazards.md R107): what the model chose for reset does not matter there (log 3, log 4). -/
def Obligations.CertifiedStepIgnoresUnwrittenValues : Prop :=
  ∀ s s' t : State, s.sameButUnwritten t → step s = .next s' → s'.certified →
    ∃ t', step t = .next t' ∧ s'.sameButUnwritten t'

/-- The same of runs of any length. -/
def Obligations.CertifiedRunsIgnoreUnwrittenValues : Prop :=
  ∀ (n : Nat) (s s' t : State), s.sameButUnwritten t → Host.Core.run Sys2Proof.core n s = .next s' → s'.certified →
    ∃ t', Host.Core.run Sys2Proof.core n t = .next t' ∧ s'.sameButUnwritten t'

/-- No step reads the bank: from two states that differ only there, either the step leaves each bank as it was, or it overwrites
both with the same values, which only Reset and a successful `+ - * /` do; everything else is the same (10_state.md R24). That Reset
overwrites the bank, with one value whatever it held, is the model's choice (log 3): 70_reset_and_hazards.md R104 leaves MEM "any W-bit
value" after Reset. So is the step with no input waiting (log 6), and IDLE on a line that breaks a host duty is its reading (log 11). -/
def Obligations.BankIsNeverRead : Prop :=
  ∀ (s s' : State) (m0 m1 : Word), step s = .next s' →
    (s'.mem0 = s.mem0 ∧ s'.mem1 = s.mem1 ∧
      step { s with mem0 := m0, mem1 := m1 } = .next { s' with mem0 := m0, mem1 := m1 }) ∨
    (step { s with mem0 := m0, mem1 := m1 } = .next s' ∧
      ((∃ more, s.inputs = .reset :: more) ∨
       (s.halted = false ∧ s'.status = .ok ∧ ∃ c more x y, s.inputs = .line c :: more ∧
         decode c ∈ [Decoded.instr (.add x y), .instr (.sub x y), .instr (.mul x y), .instr (.div x y)])))
end

