-- ==== Sys2Proof/Laws/State.lean ====
section
/-! SUPPORT. One lemma per field per update of the state, so that no later proof unfolds a record update. -/

namespace Sys2Proof.Machine

variable (s : State)

@[simp] theorem output_cfg (st : Status) (ev : Event) : (output st ev s).cfg = s.cfg := rfl
@[simp] theorem output_ax (st : Status) (ev : Event) : (output st ev s).ax = s.ax := rfl
@[simp] theorem output_bx (st : Status) (ev : Event) : (output st ev s).bx = s.bx := rfl
@[simp] theorem output_mem0 (st : Status) (ev : Event) : (output st ev s).mem0 = s.mem0 := rfl
@[simp] theorem output_mem1 (st : Status) (ev : Event) : (output st ev s).mem1 = s.mem1 := rfl
@[simp] theorem output_halted (st : Status) (ev : Event) : (output st ev s).halted = s.halted := rfl
@[simp] theorem output_status (st : Status) (ev : Event) : (output st ev s).status = st := rfl
@[simp] theorem output_event (st : Status) (ev : Event) : (output st ev s).event = ev := rfl
@[simp] theorem output_wAX (st : Status) (ev : Event) : (output st ev s).wAX = s.wAX := rfl
@[simp] theorem output_wBX (st : Status) (ev : Event) : (output st ev s).wBX = s.wBX := rfl
@[simp] theorem output_wMEM (st : Status) (ev : Event) : (output st ev s).wMEM = s.wMEM := rfl
@[simp] theorem output_uninitRead (st : Status) (ev : Event) : (output st ev s).uninitRead = s.uninitRead := rfl
@[simp] theorem output_lineIndex (st : Status) (ev : Event) : (output st ev s).lineIndex = s.lineIndex := rfl
@[simp] theorem output_inputs (st : Status) (ev : Event) : (output st ev s).inputs = s.inputs := rfl

@[simp] theorem writeReg_cfg (r : Reg) (v : Word) : (writeReg r v s).cfg = s.cfg := by cases r <;> rfl
@[simp] theorem writeReg_mem0 (r : Reg) (v : Word) : (writeReg r v s).mem0 = s.mem0 := by cases r <;> rfl
@[simp] theorem writeReg_mem1 (r : Reg) (v : Word) : (writeReg r v s).mem1 = s.mem1 := by cases r <;> rfl
@[simp] theorem writeReg_halted (r : Reg) (v : Word) : (writeReg r v s).halted = s.halted := by cases r <;> rfl
@[simp] theorem writeReg_status (r : Reg) (v : Word) : (writeReg r v s).status = s.status := by cases r <;> rfl
@[simp] theorem writeReg_event (r : Reg) (v : Word) : (writeReg r v s).event = s.event := by cases r <;> rfl
@[simp] theorem writeReg_wMEM (r : Reg) (v : Word) : (writeReg r v s).wMEM = s.wMEM := by cases r <;> rfl
@[simp] theorem writeReg_uninitRead (r : Reg) (v : Word) : (writeReg r v s).uninitRead = s.uninitRead := by cases r <;> rfl
@[simp] theorem writeReg_lineIndex (r : Reg) (v : Word) : (writeReg r v s).lineIndex = s.lineIndex := by cases r <;> rfl
@[simp] theorem writeReg_inputs (r : Reg) (v : Word) : (writeReg r v s).inputs = s.inputs := by cases r <;> rfl

@[simp] theorem writeReg_a_ax (v : Word) : (writeReg .a v s).ax = v := rfl
@[simp] theorem writeReg_a_wAX (v : Word) : (writeReg .a v s).wAX = true := rfl
@[simp] theorem writeReg_a_bx (v : Word) : (writeReg .a v s).bx = s.bx := rfl
@[simp] theorem writeReg_a_wBX (v : Word) : (writeReg .a v s).wBX = s.wBX := rfl
@[simp] theorem writeReg_b_bx (v : Word) : (writeReg .b v s).bx = v := rfl
@[simp] theorem writeReg_b_wBX (v : Word) : (writeReg .b v s).wBX = true := rfl
@[simp] theorem writeReg_b_ax (v : Word) : (writeReg .b v s).ax = s.ax := rfl
@[simp] theorem writeReg_b_wAX (v : Word) : (writeReg .b v s).wAX = s.wAX := rfl

@[simp] theorem storeResult_cfg (r : Int) : (storeResult r s).cfg = s.cfg := rfl
@[simp] theorem storeResult_ax (r : Int) : (storeResult r s).ax = s.ax := rfl
@[simp] theorem storeResult_bx (r : Int) : (storeResult r s).bx = s.bx := rfl
@[simp] theorem storeResult_mem0 (r : Int) : (storeResult r s).mem0 = trunc (2 * s.cfg.width) r / 2 ^ s.cfg.width := rfl
@[simp] theorem storeResult_mem1 (r : Int) : (storeResult r s).mem1 = trunc (2 * s.cfg.width) r % 2 ^ s.cfg.width := rfl
@[simp] theorem storeResult_halted (r : Int) : (storeResult r s).halted = s.halted := rfl
@[simp] theorem storeResult_status (r : Int) : (storeResult r s).status = s.status := rfl
@[simp] theorem storeResult_event (r : Int) : (storeResult r s).event = s.event := rfl
@[simp] theorem storeResult_wAX (r : Int) : (storeResult r s).wAX = s.wAX := rfl
@[simp] theorem storeResult_wBX (r : Int) : (storeResult r s).wBX = s.wBX := rfl
@[simp] theorem storeResult_wMEM (r : Int) : (storeResult r s).wMEM = true := rfl
@[simp] theorem storeResult_uninitRead (r : Int) : (storeResult r s).uninitRead = s.uninitRead := rfl
@[simp] theorem storeResult_lineIndex (r : Int) : (storeResult r s).lineIndex = s.lineIndex := rfl
@[simp] theorem storeResult_inputs (r : Int) : (storeResult r s).inputs = s.inputs := rfl

@[simp] theorem raise_cfg (k : ErrorKind) : (raise k s).cfg = s.cfg := rfl
@[simp] theorem raise_ax (k : ErrorKind) : (raise k s).ax = s.ax := rfl
@[simp] theorem raise_bx (k : ErrorKind) : (raise k s).bx = s.bx := rfl
@[simp] theorem raise_mem0 (k : ErrorKind) : (raise k s).mem0 = s.mem0 := rfl
@[simp] theorem raise_mem1 (k : ErrorKind) : (raise k s).mem1 = s.mem1 := rfl
@[simp] theorem raise_halted (k : ErrorKind) : (raise k s).halted = true := rfl
@[simp] theorem raise_status (k : ErrorKind) : (raise k s).status = errorStatus k := rfl
@[simp] theorem raise_event (k : ErrorKind) : (raise k s).event = .diag := rfl
@[simp] theorem raise_wAX (k : ErrorKind) : (raise k s).wAX = s.wAX := rfl
@[simp] theorem raise_wBX (k : ErrorKind) : (raise k s).wBX = s.wBX := rfl
@[simp] theorem raise_wMEM (k : ErrorKind) : (raise k s).wMEM = s.wMEM := rfl
@[simp] theorem raise_uninitRead (k : ErrorKind) : (raise k s).uninitRead = s.uninitRead := rfl
@[simp] theorem raise_lineIndex (k : ErrorKind) : (raise k s).lineIndex = s.lineIndex := rfl
@[simp] theorem raise_inputs (k : ErrorKind) : (raise k s).inputs = s.inputs := rfl

@[simp] theorem noteRead_cfg (r : Reg) : (noteRead r s).cfg = s.cfg := rfl
@[simp] theorem noteRead_ax (r : Reg) : (noteRead r s).ax = s.ax := rfl
@[simp] theorem noteRead_bx (r : Reg) : (noteRead r s).bx = s.bx := rfl
@[simp] theorem noteRead_mem0 (r : Reg) : (noteRead r s).mem0 = s.mem0 := rfl
@[simp] theorem noteRead_mem1 (r : Reg) : (noteRead r s).mem1 = s.mem1 := rfl
@[simp] theorem noteRead_halted (r : Reg) : (noteRead r s).halted = s.halted := rfl
@[simp] theorem noteRead_status (r : Reg) : (noteRead r s).status = s.status := rfl
@[simp] theorem noteRead_event (r : Reg) : (noteRead r s).event = s.event := rfl
@[simp] theorem noteRead_wAX (r : Reg) : (noteRead r s).wAX = s.wAX := rfl
@[simp] theorem noteRead_wBX (r : Reg) : (noteRead r s).wBX = s.wBX := rfl
@[simp] theorem noteRead_wMEM (r : Reg) : (noteRead r s).wMEM = s.wMEM := rfl
@[simp] theorem noteRead_uninitRead (r : Reg) : (noteRead r s).uninitRead = (s.uninitRead || !regWritten r s) := rfl
@[simp] theorem noteRead_lineIndex (r : Reg) : (noteRead r s).lineIndex = s.lineIndex := rfl
@[simp] theorem noteRead_inputs (r : Reg) : (noteRead r s).inputs = s.inputs := rfl

@[simp] theorem noteResolve_cfg (ch : Byte) : (noteResolve ch s).cfg = s.cfg := by
  unfold noteResolve; split <;> rfl
@[simp] theorem noteResolve_ax (ch : Byte) : (noteResolve ch s).ax = s.ax := by
  unfold noteResolve; split <;> rfl
@[simp] theorem noteResolve_bx (ch : Byte) : (noteResolve ch s).bx = s.bx := by
  unfold noteResolve; split <;> rfl
@[simp] theorem noteResolve_mem0 (ch : Byte) : (noteResolve ch s).mem0 = s.mem0 := by
  unfold noteResolve; split <;> rfl
@[simp] theorem noteResolve_mem1 (ch : Byte) : (noteResolve ch s).mem1 = s.mem1 := by
  unfold noteResolve; split <;> rfl
@[simp] theorem noteResolve_halted (ch : Byte) : (noteResolve ch s).halted = s.halted := by
  unfold noteResolve; split <;> rfl
@[simp] theorem noteResolve_status (ch : Byte) : (noteResolve ch s).status = s.status := by
  unfold noteResolve; split <;> rfl
@[simp] theorem noteResolve_event (ch : Byte) : (noteResolve ch s).event = s.event := by
  unfold noteResolve; split <;> rfl
@[simp] theorem noteResolve_wAX (ch : Byte) : (noteResolve ch s).wAX = s.wAX := by
  unfold noteResolve; split <;> rfl
@[simp] theorem noteResolve_wBX (ch : Byte) : (noteResolve ch s).wBX = s.wBX := by
  unfold noteResolve; split <;> rfl
@[simp] theorem noteResolve_wMEM (ch : Byte) : (noteResolve ch s).wMEM = s.wMEM := by
  unfold noteResolve; split <;> rfl
@[simp] theorem noteResolve_lineIndex (ch : Byte) : (noteResolve ch s).lineIndex = s.lineIndex := by
  unfold noteResolve; split <;> rfl
@[simp] theorem noteResolve_inputs (ch : Byte) : (noteResolve ch s).inputs = s.inputs := by
  unfold noteResolve; split <;> rfl

@[simp] theorem haltBlock_cfg : (haltBlock s).cfg = s.cfg := rfl
@[simp] theorem haltBlock_ax : (haltBlock s).ax = s.ax := rfl
@[simp] theorem haltBlock_bx : (haltBlock s).bx = s.bx := rfl
@[simp] theorem haltBlock_mem0 : (haltBlock s).mem0 = s.mem0 := rfl
@[simp] theorem haltBlock_mem1 : (haltBlock s).mem1 = s.mem1 := rfl
@[simp] theorem haltBlock_halted : (haltBlock s).halted = true := rfl
@[simp] theorem haltBlock_status : (haltBlock s).status = .halt := rfl
@[simp] theorem haltBlock_event : (haltBlock s).event = .none := rfl
@[simp] theorem haltBlock_wAX : (haltBlock s).wAX = s.wAX := rfl
@[simp] theorem haltBlock_wBX : (haltBlock s).wBX = s.wBX := rfl
@[simp] theorem haltBlock_wMEM : (haltBlock s).wMEM = s.wMEM := rfl
@[simp] theorem haltBlock_uninitRead : (haltBlock s).uninitRead = s.uninitRead := rfl
@[simp] theorem haltBlock_lineIndex : (haltBlock s).lineIndex = s.lineIndex := rfl
@[simp] theorem haltBlock_inputs : (haltBlock s).inputs = s.inputs := rfl

@[simp] theorem idleInput_cfg : (idleInput s).cfg = s.cfg := rfl
@[simp] theorem idleInput_ax : (idleInput s).ax = s.ax := rfl
@[simp] theorem idleInput_bx : (idleInput s).bx = s.bx := rfl
@[simp] theorem idleInput_mem0 : (idleInput s).mem0 = s.mem0 := rfl
@[simp] theorem idleInput_mem1 : (idleInput s).mem1 = s.mem1 := rfl
@[simp] theorem idleInput_halted : (idleInput s).halted = s.halted := rfl
@[simp] theorem idleInput_status : (idleInput s).status = .idle := rfl
@[simp] theorem idleInput_event : (idleInput s).event = .none := rfl
@[simp] theorem idleInput_wAX : (idleInput s).wAX = s.wAX := rfl
@[simp] theorem idleInput_wBX : (idleInput s).wBX = s.wBX := rfl
@[simp] theorem idleInput_wMEM : (idleInput s).wMEM = s.wMEM := rfl
@[simp] theorem idleInput_uninitRead : (idleInput s).uninitRead = s.uninitRead := rfl
@[simp] theorem idleInput_lineIndex : (idleInput s).lineIndex = s.lineIndex := rfl
@[simp] theorem idleInput_inputs : (idleInput s).inputs = s.inputs := rfl

@[simp] theorem ignoreLine_cfg : (ignoreLine s).cfg = s.cfg := rfl
@[simp] theorem ignoreLine_ax : (ignoreLine s).ax = s.ax := rfl
@[simp] theorem ignoreLine_bx : (ignoreLine s).bx = s.bx := rfl
@[simp] theorem ignoreLine_mem0 : (ignoreLine s).mem0 = s.mem0 := rfl
@[simp] theorem ignoreLine_mem1 : (ignoreLine s).mem1 = s.mem1 := rfl
@[simp] theorem ignoreLine_halted : (ignoreLine s).halted = s.halted := rfl
@[simp] theorem ignoreLine_status : (ignoreLine s).status = .ignored := rfl
@[simp] theorem ignoreLine_event : (ignoreLine s).event = .none := rfl
@[simp] theorem ignoreLine_wAX : (ignoreLine s).wAX = s.wAX := rfl
@[simp] theorem ignoreLine_wBX : (ignoreLine s).wBX = s.wBX := rfl
@[simp] theorem ignoreLine_wMEM : (ignoreLine s).wMEM = s.wMEM := rfl
@[simp] theorem ignoreLine_uninitRead : (ignoreLine s).uninitRead = s.uninitRead := rfl
@[simp] theorem ignoreLine_lineIndex : (ignoreLine s).lineIndex = s.lineIndex := rfl
@[simp] theorem ignoreLine_inputs : (ignoreLine s).inputs = s.inputs := rfl

@[simp] theorem dropInput_cfg : (dropInput s).cfg = s.cfg := rfl
@[simp] theorem dropInput_ax : (dropInput s).ax = s.ax := rfl
@[simp] theorem dropInput_bx : (dropInput s).bx = s.bx := rfl
@[simp] theorem dropInput_mem0 : (dropInput s).mem0 = s.mem0 := rfl
@[simp] theorem dropInput_mem1 : (dropInput s).mem1 = s.mem1 := rfl
@[simp] theorem dropInput_halted : (dropInput s).halted = s.halted := rfl
@[simp] theorem dropInput_status : (dropInput s).status = s.status := rfl
@[simp] theorem dropInput_event : (dropInput s).event = s.event := rfl
@[simp] theorem dropInput_wAX : (dropInput s).wAX = s.wAX := rfl
@[simp] theorem dropInput_wBX : (dropInput s).wBX = s.wBX := rfl
@[simp] theorem dropInput_wMEM : (dropInput s).wMEM = s.wMEM := rfl
@[simp] theorem dropInput_uninitRead : (dropInput s).uninitRead = s.uninitRead := rfl
@[simp] theorem dropInput_lineIndex : (dropInput s).lineIndex = s.lineIndex := rfl
@[simp] theorem dropInput_inputs : (dropInput s).inputs = s.inputs.tail := rfl

@[simp] theorem takeLine_cfg : (takeLine s).cfg = s.cfg := rfl
@[simp] theorem takeLine_ax : (takeLine s).ax = s.ax := rfl
@[simp] theorem takeLine_bx : (takeLine s).bx = s.bx := rfl
@[simp] theorem takeLine_mem0 : (takeLine s).mem0 = s.mem0 := rfl
@[simp] theorem takeLine_mem1 : (takeLine s).mem1 = s.mem1 := rfl
@[simp] theorem takeLine_halted : (takeLine s).halted = s.halted := rfl
@[simp] theorem takeLine_status : (takeLine s).status = s.status := rfl
@[simp] theorem takeLine_event : (takeLine s).event = s.event := rfl
@[simp] theorem takeLine_wAX : (takeLine s).wAX = s.wAX := rfl
@[simp] theorem takeLine_wBX : (takeLine s).wBX = s.wBX := rfl
@[simp] theorem takeLine_wMEM : (takeLine s).wMEM = s.wMEM := rfl
@[simp] theorem takeLine_uninitRead : (takeLine s).uninitRead = s.uninitRead := rfl
@[simp] theorem takeLine_lineIndex : (takeLine s).lineIndex = s.lineIndex + 1 := rfl
@[simp] theorem takeLine_inputs : (takeLine s).inputs = s.inputs.tail := rfl

@[simp] theorem resetBlock_cfg : (resetBlock s).cfg = s.cfg := rfl
@[simp] theorem resetBlock_ax : (resetBlock s).ax = 0 := rfl
@[simp] theorem resetBlock_bx : (resetBlock s).bx = 0 := rfl
@[simp] theorem resetBlock_mem0 : (resetBlock s).mem0 = 0 := rfl
@[simp] theorem resetBlock_mem1 : (resetBlock s).mem1 = 0 := rfl
@[simp] theorem resetBlock_halted : (resetBlock s).halted = false := rfl
@[simp] theorem resetBlock_status : (resetBlock s).status = .ok := rfl
@[simp] theorem resetBlock_event : (resetBlock s).event = .none := rfl
@[simp] theorem resetBlock_wAX : (resetBlock s).wAX = false := rfl
@[simp] theorem resetBlock_wBX : (resetBlock s).wBX = false := rfl
@[simp] theorem resetBlock_wMEM : (resetBlock s).wMEM = false := rfl
@[simp] theorem resetBlock_uninitRead : (resetBlock s).uninitRead = s.uninitRead := rfl
@[simp] theorem resetBlock_lineIndex : (resetBlock s).lineIndex = 0 := rfl
@[simp] theorem resetBlock_inputs : (resetBlock s).inputs = s.inputs := rfl

@[simp] theorem arithmeticDone_cfg (a m0 m1 : Word) (u : Bool) : (arithmeticDone a m0 m1 u s).cfg = s.cfg := rfl
@[simp] theorem arithmeticDone_ax (a m0 m1 : Word) (u : Bool) : (arithmeticDone a m0 m1 u s).ax = a := rfl
@[simp] theorem arithmeticDone_bx (a m0 m1 : Word) (u : Bool) : (arithmeticDone a m0 m1 u s).bx = s.bx := rfl
@[simp] theorem arithmeticDone_mem0 (a m0 m1 : Word) (u : Bool) : (arithmeticDone a m0 m1 u s).mem0 = m0 := rfl
@[simp] theorem arithmeticDone_mem1 (a m0 m1 : Word) (u : Bool) : (arithmeticDone a m0 m1 u s).mem1 = m1 := rfl
@[simp] theorem arithmeticDone_halted (a m0 m1 : Word) (u : Bool) : (arithmeticDone a m0 m1 u s).halted = s.halted := rfl
@[simp] theorem arithmeticDone_status (a m0 m1 : Word) (u : Bool) : (arithmeticDone a m0 m1 u s).status = .ok := rfl
@[simp] theorem arithmeticDone_event (a m0 m1 : Word) (u : Bool) : (arithmeticDone a m0 m1 u s).event = .none := rfl
@[simp] theorem arithmeticDone_wAX (a m0 m1 : Word) (u : Bool) : (arithmeticDone a m0 m1 u s).wAX = true := rfl
@[simp] theorem arithmeticDone_wBX (a m0 m1 : Word) (u : Bool) : (arithmeticDone a m0 m1 u s).wBX = s.wBX := rfl
@[simp] theorem arithmeticDone_wMEM (a m0 m1 : Word) (u : Bool) : (arithmeticDone a m0 m1 u s).wMEM = true := rfl
@[simp] theorem arithmeticDone_uninitRead (a m0 m1 : Word) (u : Bool) : (arithmeticDone a m0 m1 u s).uninitRead = u := rfl
@[simp] theorem arithmeticDone_lineIndex (a m0 m1 : Word) (u : Bool) : (arithmeticDone a m0 m1 u s).lineIndex = s.lineIndex := rfl
@[simp] theorem arithmeticDone_inputs (a m0 m1 : Word) (u : Bool) : (arithmeticDone a m0 m1 u s).inputs = s.inputs := rfl

@[simp] theorem failedWith_cfg (st : Status) (u : Bool) : (failedWith st u s).cfg = s.cfg := rfl
@[simp] theorem failedWith_ax (st : Status) (u : Bool) : (failedWith st u s).ax = s.ax := rfl
@[simp] theorem failedWith_bx (st : Status) (u : Bool) : (failedWith st u s).bx = s.bx := rfl
@[simp] theorem failedWith_mem0 (st : Status) (u : Bool) : (failedWith st u s).mem0 = s.mem0 := rfl
@[simp] theorem failedWith_mem1 (st : Status) (u : Bool) : (failedWith st u s).mem1 = s.mem1 := rfl
@[simp] theorem failedWith_halted (st : Status) (u : Bool) : (failedWith st u s).halted = true := rfl
@[simp] theorem failedWith_status (st : Status) (u : Bool) : (failedWith st u s).status = st := rfl
@[simp] theorem failedWith_event (st : Status) (u : Bool) : (failedWith st u s).event = .diag := rfl
@[simp] theorem failedWith_wAX (st : Status) (u : Bool) : (failedWith st u s).wAX = s.wAX := rfl
@[simp] theorem failedWith_wBX (st : Status) (u : Bool) : (failedWith st u s).wBX = s.wBX := rfl
@[simp] theorem failedWith_wMEM (st : Status) (u : Bool) : (failedWith st u s).wMEM = s.wMEM := rfl
@[simp] theorem failedWith_uninitRead (st : Status) (u : Bool) : (failedWith st u s).uninitRead = u := rfl
@[simp] theorem failedWith_lineIndex (st : Status) (u : Bool) : (failedWith st u s).lineIndex = s.lineIndex := rfl
@[simp] theorem failedWith_inputs (st : Status) (u : Bool) : (failedWith st u s).inputs = s.inputs := rfl

end Sys2Proof.Machine
end

