-- ==== Sys2Proof/Laws/Ops.lean ====
section
/-! SUPPORT. What each shared operation can do, said once. -/

namespace Sys2Proof.Machine

/-- `trunc_N(r)` is below `2^N` (00_scope.md R11). -/
theorem trunc_lt (n : Nat) (r : Int) : trunc n r < 2 ^ n := by
  have hpos : (0 : Int) < 2 ^ n := by positivity
  have h0 := Int.emod_nonneg r hpos.ne'
  have h1 := Int.emod_lt_of_pos r hpos
  have h2 : ((2 ^ n : Nat) : Int) = 2 ^ n := by push_cast; rfl
  unfold trunc; omega

/-- As an integer, `trunc_N(r)` is the remainder of `r` modulo `2^N` (R11). -/
theorem trunc_cast (n : Nat) (r : Int) : (trunc n r : Int) = r % 2 ^ n := by
  have hpos : (0 : Int) < 2 ^ n := by positivity
  exact Int.toNat_of_nonneg (Int.emod_nonneg r hpos.ne')

/-- On a natural number, `trunc_N` is the remainder modulo `2^N`. -/
theorem trunc_natCast (n v : Nat) : trunc n (v : Int) = v % 2 ^ n := by
  have h := trunc_cast n (v : Int)
  have h2 : ((v % 2 ^ n : Nat) : Int) = (v : Int) % 2 ^ n := by push_cast; rfl
  omega

/-- The high half of a `2W`-bit field is below `2^W`. -/
theorem trunc_high_lt (w : Nat) (r : Int) : trunc (2 * w) r / 2 ^ w < 2 ^ w := by
  apply Nat.div_lt_of_lt_mul
  have h := trunc_lt (2 * w) r
  calc trunc (2 * w) r < 2 ^ (2 * w) := h
    _ = 2 ^ w * 2 ^ w := by rw [two_mul, pow_add]

/-- The two halves of a `2W`-bit field make it up. -/
theorem trunc_halves (w : Nat) (r : Int) :
    trunc (2 * w) r / 2 ^ w * 2 ^ w + trunc (2 * w) r % 2 ^ w = trunc (2 * w) r := by
  rw [Nat.mul_comm]; exact Nat.div_add_mod _ _

/-- The low half of a `2W`-bit field is the `W`-bit field of the same number. -/
theorem trunc_low (w : Nat) (r : Int) : trunc (2 * w) r % 2 ^ w = trunc w r := by
  have h : ((trunc (2 * w) r % 2 ^ w : Nat) : Int) = (trunc w r : Int) := by
    push_cast
    rw [trunc_cast, trunc_cast]
    exact Int.emod_emod_of_dvd r (pow_dvd_pow 2 (by omega))
  exact_mod_cast h

/-- Every byte makes exactly one selection of the multiplexer (30_encoding.md R64). -/
theorem resolve_cases (ch : Byte) (s : State) :
    (isDigit ch = true ∧ resolve ch s = some (digitValue ch) ∧ noteResolve ch s = s) ∨
    (∃ r, isDigit ch = false ∧ regOf ch = some r ∧ resolve ch s = some (readReg r s) ∧
      noteResolve ch s = noteRead r s) ∨
    (isDigit ch = false ∧ regOf ch = none ∧ resolve ch s = none ∧ noteResolve ch s = s) := by
  cases hd : isDigit ch
  · cases hr : regOf ch with
    | none => right; right; simp [resolve, noteResolve, select, hd, hr]
    | some r => right; left; exact ⟨r, by simp [resolve, noteResolve, select, hd, hr, bitsToDecimal]⟩
  · left; simp [resolve, noteResolve, select, hd]

/-- The only state an operand read leaves: UNINIT_READ may be recorded. -/
theorem noteResolve_eq (ch : Byte) (s : State) :
    ∃ u, noteResolve ch s = { s with uninitRead := u } := by
  rcases resolve_cases ch s with ⟨-, -, h⟩ | ⟨r, -, -, -, h⟩ | ⟨-, -, -, h⟩
  · exact ⟨s.uninitRead, h⟩
  · exact ⟨_, h⟩
  · exact ⟨s.uninitRead, h⟩

/-- Everything the arithmetic datapath can do (40_arithmetic.md R70). -/
theorem arith_cases (f : Nat → Nat → Option Int) (x y : Byte) (s : State) :
    (resolve x s = none ∧ arith f x y s = raise .unresolvableOperand s) ∨
    (∃ a, resolve x s = some a ∧ resolve y s = none ∧
      arith f x y s = raise .unresolvableOperand (noteResolve x s)) ∨
    (∃ a b, resolve x s = some a ∧ resolve y s = some b ∧ f a b = none ∧
      arith f x y s = raise .invalidOperation (noteResolve y (noteResolve x s))) ∨
    (∃ a b r, resolve x s = some a ∧ resolve y s = some b ∧ f a b = some r ∧
      arith f x y s = arithmeticDone (trunc s.cfg.width r) (trunc (2 * s.cfg.width) r / 2 ^ s.cfg.width)
        (trunc (2 * s.cfg.width) r % 2 ^ s.cfg.width) (noteResolve y (noteResolve x s)).uninitRead s) := by
  cases hx : resolve x s with
  | none => left; simp [arith, hx]
  | some a =>
    cases hy : resolve y s with
    | none => right; left; exact ⟨a, by simp [arith, hx, hy]⟩
    | some b =>
      cases hf : f a b with
      | none => right; right; left; exact ⟨a, b, by simp [arith, hx, hy, hf]⟩
      | some r =>
        refine Or.inr (Or.inr (Or.inr ⟨a, b, r, rfl, rfl, hf, ?_⟩))
        obtain ⟨u, hu⟩ := noteResolve_eq x s
        obtain ⟨v, hv⟩ := noteResolve_eq y (noteResolve x s)
        simp [arith, hx, hy, hf, arithmeticDone, output, storeResult, writeReg, decimalToBits, hu] at hv ⊢

/-- The register that a character names: `A` or `B`, else none (10_state.md R18). -/
theorem regOf_cases (ch : Byte) :
    (ch = chA ∧ regOf ch = some .a) ∨ (ch = chB ∧ regOf ch = some .b) ∨
    (ch ≠ chA ∧ ch ≠ chB ∧ regOf ch = none) := by
  by_cases ha : ch = chA
  · left; simp [regOf, ha]
  · by_cases hb : ch = chB
    · right; left; subst hb; exact ⟨rfl, by decide⟩
    · right; right; simp [regOf, ha, hb]

/-- Everything `M` can do (41_move.md R76). -/
theorem execMov_cases (x y : Byte) (s : State) :
    execMov x y s = .next (raise .invalidOperation s) ∨
    (∃ d, regOf y = some d ∧ isDigit x = true ∧ execMov x y s = .next (moveTo d (digitValue x) s)) ∨
    (∃ d r, regOf y = some d ∧ isDigit x = false ∧ regOf x = some r ∧ r ≠ d ∧
      execMov x y s = .next (moveTo d (readReg r s) (noteRead r s))) := by
  cases hy : regOf y with
  | none => left; simp [execMov, hy]
  | some d =>
    cases hd : isDigit x
    · cases hx : regOf x with
      | none => left; simp [execMov, hy, moveSource, hd, hx]
      | some r =>
        by_cases hrd : r = d
        · left; simp [execMov, hy, moveSource, hd, hx, hrd]
        · right; right
          exact ⟨d, r, rfl, rfl, rfl, hrd, by simp [execMov, hy, moveSource, hd, hx, hrd, bitsToDecimal]⟩
    · right; left; exact ⟨d, rfl, rfl, by simp [execMov, hy, moveSource, hd]⟩

/-- Everything `@` can do (43_print.md R82). -/
theorem execPrint_cases (x : Byte) (s : State) :
    (∃ r, regOf x = some r ∧ execPrint x s = .next (output .ok (.dec (readReg r s)) (noteRead r s))) ∨
    (regOf x = none ∧ execPrint x s = .next (output .ok (.char x) s)) := by
  cases hx : regOf x with
  | none => right; simp [execPrint, hx]
  | some r => left; exact ⟨r, by simp [execPrint, hx]⟩

/-- When a line keeps the host's duties (30_encoding.md R50). -/
theorem lineRefusal_none (lmax : Nat) (c : Line) :
    lineRefusal lmax c = none ↔ c.length ≤ lmax ∧ chLF ∉ c ∧ chNul ∉ c := by
  by_cases h1 : lmax < c.length <;> by_cases h2 : chLF ∈ c <;> by_cases h3 : chNul ∈ c <;>
    simp [lineRefusal, h1, h2, h3]
  all_goals omega

/-- Everything one step can do (60_exceptions.md R86). -/
theorem engineStep_cases (s : State) :
    (s.inputs = [] ∧ engineStep s = .next s) ∨
    (∃ rest, s.inputs = .reset :: rest ∧ engineStep s = .next (resetBlock (dropInput s))) ∨
    (∃ rest, s.inputs = .stop :: rest ∧ s.halted = false ∧ engineStep s = .next (haltBlock (dropInput s))) ∨
    (∃ c rest, s.inputs = .line c :: rest ∧ s.halted = false ∧ engineStep s = runLine c (takeLine s)) ∨
    (∃ i rest, s.inputs = i :: rest ∧ i ≠ .reset ∧ s.halted = true ∧
      engineStep s = .next (idleInput (dropInput s))) := by
  cases hi : s.inputs with
  | nil => left; simp [engineStep, hi]
  | cons i rest =>
    cases i with
    | reset => right; left; exact ⟨rest, rfl, by simp [engineStep, hi]⟩
    | stop =>
      cases hh : s.halted
      · right; right; left; exact ⟨rest, rfl, rfl, by simp [engineStep, hi, hh]⟩
      · right; right; right; right; exact ⟨.stop, rest, rfl, by simp, rfl, by simp [engineStep, hi, hh]⟩
    | line c =>
      cases hh : s.halted
      · right; right; right; left; exact ⟨c, rest, rfl, rfl, by simp [engineStep, hi, hh]⟩
      · right; right; right; right; exact ⟨.line c, rest, rfl, by simp, rfl, by simp [engineStep, hi, hh]⟩

/-- The decoder on a line that is not empty, by the row its first character selects (30_encoding.md R53, R66). -/
theorem decode_cons (op : Byte) (rest : Line) :
    decode (op :: rest) =
      match shapeOf op with
      | none => .malformed .unknownOpcode
      | some (.zero i) => decodeZero i rest
      | some (.one mk) => decodeOne mk rest
      | some (.two mk) => decodeTwo mk rest := rfl

/-- An opcode character selects only rows of the opcode map (R66). -/
theorem shapeOf_mem (op : Byte) (sh : Shape) (h : shapeOf op = some sh) : (op, sh) ∈ opcodeMap := by
  unfold shapeOf at h
  generalize opcodeMap = rows at h ⊢
  induction rows with
  | nil => simp at h
  | cons row rows ih =>
    obtain ⟨k, v⟩ := row
    rw [List.lookup_cons] at h
    split at h
    · rename_i he
      simp at he h
      subst he h
      simp
    · simp [ih h]

/-- Everything a line can do (60_exceptions.md R86, R102). -/
theorem runLine_cases (c : Line) (s : State) :
    (∃ r, lineRefusal s.cfg.lmax c = some r ∧ runLine c s = .refused r) ∨
    (lineRefusal s.cfg.lmax c = none ∧ decode c = .ignored ∧ runLine c s = .next (ignoreLine s)) ∨
    (∃ w, lineRefusal s.cfg.lmax c = none ∧ decode c = .malformed w ∧
      runLine c s = .next (raise .malformedInstruction s)) ∨
    (∃ i, lineRefusal s.cfg.lmax c = none ∧ decode c = .instr i ∧ runLine c s = exec i s) := by
  cases hr : lineRefusal s.cfg.lmax c with
  | some r => left; exact ⟨r, rfl, by simp [runLine, hr]⟩
  | none =>
    cases hd : decode c with
    | ignored => right; left; exact ⟨rfl, rfl, by simp [runLine, hr, hd]⟩
    | malformed w => right; right; left; exact ⟨w, rfl, rfl, by simp [runLine, hr, hd]⟩
    | instr i => right; right; right; exact ⟨i, rfl, rfl, by simp [runLine, hr, hd]⟩

/-- A run goes on from the state that its first step leaves. -/
theorem run_of_step_next (n : Nat) (s u : State) (h : step s = .next u) :
    Host.Core.run Sys2Proof.core (n + 1) s = Host.Core.run Sys2Proof.core n u := by
  have hs : Sys2Proof.core.step s = .next u := h
  refine (Host.Core.run.eq_2 Sys2Proof.core s n).trans ?_
  rw [hs]

/-- A run stops with the refusal of its first step. -/
theorem run_of_step_refused (n : Nat) (s : State) (r : Refusal) (h : step s = .refused r) :
    Host.Core.run Sys2Proof.core (n + 1) s = .refused r := by
  have hs : Sys2Proof.core.step s = .refused r := h
  refine (Host.Core.run.eq_2 Sys2Proof.core s n).trans ?_
  rw [hs]

end Sys2Proof.Machine
end

