-- ==== Sys2Proof/Laws/PerInstr.lean ====
section
/-! SUPPORT. Statements about every instruction, one lemma per constructor. -/

namespace Sys2Proof.Laws

/-- A well-formed instruction is written as a line that keeps the host's duties under every LMAX of at least 5
(30_encoding.md R50, R52, R68). -/
def EncodedDutiful.Statement (i : Instr) : Prop :=
  i.wf = true → ∀ lmax, 5 ≤ lmax → Machine.lineRefusal lmax (encode i) = none

/-- Operand bytes that can stand in a line are neither LF nor NUL. -/
theorem operandOk_ne (b : Byte) (h : operandOk b = true) : chLF ≠ b ∧ chNul ≠ b := by
  constructor
  · rintro rfl; exact absurd h (by decide)
  · rintro rfl; exact absurd h (by decide)

/-- A two-operand line keeps the host's duties. -/
theorem lineTwo_dutiful (op x y : Byte) (hop : chLF ≠ op ∧ chNul ≠ op) (hx : operandOk x = true)
    (hy : operandOk y = true) (lmax : Nat) (h : 5 ≤ lmax) :
    Machine.lineRefusal lmax (lineTwo op x y) = none := by
  have h1 := operandOk_ne x hx
  have h2 := operandOk_ne y hy
  have h3 : chLF ≠ chSpace ∧ chNul ≠ chSpace := by decide
  rw [Machine.lineRefusal_none]
  simp [lineTwo, hop, h1, h2, h3, h]

/-- A one-operand line keeps the host's duties. -/
theorem lineOne_dutiful (op x : Byte) (hop : chLF ≠ op ∧ chNul ≠ op) (hx : operandOk x = true)
    (lmax : Nat) (h : 5 ≤ lmax) : Machine.lineRefusal lmax (lineOne op x) = none := by
  have h1 := operandOk_ne x hx
  have h3 : chLF ≠ chSpace ∧ chNul ≠ chSpace := by decide
  rw [Machine.lineRefusal_none]
  simp [lineOne, hop, h1, h3]; omega

theorem EncodedDutiful.add (x y : Byte) : EncodedDutiful.Statement (.add x y) := by
  intro hwf lmax h
  simp [Instr.wf, Instr.operands] at hwf
  exact lineTwo_dutiful opAdd x y (by decide) hwf.1 hwf.2 lmax h

theorem EncodedDutiful.sub (x y : Byte) : EncodedDutiful.Statement (.sub x y) := by
  intro hwf lmax h
  simp [Instr.wf, Instr.operands] at hwf
  exact lineTwo_dutiful opSub x y (by decide) hwf.1 hwf.2 lmax h

theorem EncodedDutiful.mul (x y : Byte) : EncodedDutiful.Statement (.mul x y) := by
  intro hwf lmax h
  simp [Instr.wf, Instr.operands] at hwf
  exact lineTwo_dutiful opMul x y (by decide) hwf.1 hwf.2 lmax h

theorem EncodedDutiful.div (x y : Byte) : EncodedDutiful.Statement (.div x y) := by
  intro hwf lmax h
  simp [Instr.wf, Instr.operands] at hwf
  exact lineTwo_dutiful opDiv x y (by decide) hwf.1 hwf.2 lmax h

theorem EncodedDutiful.mov (x y : Byte) : EncodedDutiful.Statement (.mov x y) := by
  intro hwf lmax h
  simp [Instr.wf, Instr.operands] at hwf
  exact lineTwo_dutiful opMov x y (by decide) hwf.1 hwf.2 lmax h

theorem EncodedDutiful.eq (x y : Byte) : EncodedDutiful.Statement (.eq x y) := by
  intro hwf lmax h
  simp [Instr.wf, Instr.operands] at hwf
  exact lineTwo_dutiful opEq x y (by decide) hwf.1 hwf.2 lmax h

theorem EncodedDutiful.gt (x y : Byte) : EncodedDutiful.Statement (.gt x y) := by
  intro hwf lmax h
  simp [Instr.wf, Instr.operands] at hwf
  exact lineTwo_dutiful opGt x y (by decide) hwf.1 hwf.2 lmax h

theorem EncodedDutiful.lt (x y : Byte) : EncodedDutiful.Statement (.lt x y) := by
  intro hwf lmax h
  simp [Instr.wf, Instr.operands] at hwf
  exact lineTwo_dutiful opLt x y (by decide) hwf.1 hwf.2 lmax h

theorem EncodedDutiful.ne (x y : Byte) : EncodedDutiful.Statement (.ne x y) := by
  intro hwf lmax h
  simp [Instr.wf, Instr.operands] at hwf
  exact lineTwo_dutiful opNe x y (by decide) hwf.1 hwf.2 lmax h

theorem EncodedDutiful.print (x : Byte) : EncodedDutiful.Statement (.print x) := by
  intro hwf lmax h
  simp [Instr.wf, Instr.operands] at hwf
  exact lineOne_dutiful opPrint x (by decide) hwf lmax h

theorem EncodedDutiful.halt : EncodedDutiful.Statement .halt := by
  intro _ lmax h
  have hop : chLF ≠ opHalt ∧ chNul ≠ opHalt := by decide
  rw [Machine.lineRefusal_none]
  simp [encode, hop]; omega

theorem EncodedDutiful.help : EncodedDutiful.Statement .help := by
  intro _ lmax h
  have hop : chLF ≠ opHelp ∧ chNul ≠ opHelp := by decide
  rw [Machine.lineRefusal_none]
  simp [encode, hop]; omega

end Sys2Proof.Laws
end

