-- ==== Sys2Proof/Tests/Slice0.lean ====
section
/-! SUPPORT. Tests. Expected results come from spec/95_test_vectors.md (named by section) or are worked out by hand from the rule
named. Then, for each statement with hypotheses, a witness that meets them. -/

namespace Sys2Proof.Tests

open Sys2Proof.Machine

/-- A RUNNING block of width `w` with both registers written. -/
def block (w ax bx : Nat) : State :=
  { State.reset with cfg := { Config.vnpu with width := w }, ax := ax, bx := bx, wAX := true, wBX := true }

/-- The state a step leaves, if it leaves one. -/
def nextOf (o : Host.Outcome State Fault Refusal) : Option State :=
  match o with
  | .next s => some s
  | .fault _ => none
  | .refused _ => none

/-- The state after a table word runs as the next input. -/
def after (s : State) (w : Nat) : Option State := nextOf (step (s.withFetchWord 48 w))

/-- Status, AX and bank after an arithmetic word. -/
def arithAfter (s : State) (w : Nat) : Option (Status × Nat × Nat × Nat) :=
  (after s w).map fun t => (t.status, t.ax, t.mem0, t.mem1)

/-- Status and event after a word. -/
def shown (s : State) (w : Nat) : Option (Status × Event) := (after s w).map fun t => (t.status, t.event)

/-- Status, AX and BX after a word. -/
def regsAfter (s : State) (w : Nat) : Option (Status × Nat × Nat) := (after s w).map fun t => (t.status, t.ax, t.bx)

/-! ## Well-formedness smoke: an ill-formed term for each check -/

theorem test_wf_refuses_space_x : (Instr.add 0x20#8 0x33#8).wf = false := by decide
theorem test_wf_refuses_tab_y : (Instr.mov 0x35#8 0x09#8).wf = false := by decide
theorem test_wf_refuses_linefeed : (Instr.eq 0x0A#8 0x41#8).wf = false := by decide
theorem test_wf_refuses_nul : (Instr.print 0x00#8).wf = false := by decide
theorem test_wf_accepts_add : (Instr.add 0x33#8 0x34#8).wf = true := by decide
theorem test_config_refuses_width_zero : ¬ ({ Config.vnpu with width := 0 } : Config).wf := by decide
theorem test_config_refuses_lmax_four : ¬ ({ Config.vnpu with lmax := 4 } : Config).wf := by decide

/-! ## Decoding: words of 95_test_vectors.md, one for each constructor, and the malformed shapes of its section 2.1 -/

theorem test_decode_add : decodeTableWord 48 0x2B2033203400 = some (.add 0x33#8 0x34#8) := by decide
theorem test_decode_sub : decodeTableWord 48 0x2D2030204100 = some (.sub 0x30#8 0x41#8) := by decide
theorem test_decode_mul : decodeTableWord 48 0x2A2041204200 = some (.mul 0x41#8 0x42#8) := by decide
theorem test_decode_div : decodeTableWord 48 0x2F2039203200 = some (.div 0x39#8 0x32#8) := by decide
theorem test_decode_mov : decodeTableWord 48 0x4D2035204200 = some (.mov 0x35#8 0x42#8) := by decide
theorem test_decode_eq : decodeTableWord 48 0x3F2041204200 = some (.eq 0x41#8 0x42#8) := by decide
theorem test_decode_gt : decodeTableWord 48 0x3E2062204100 = some (.gt 0x62#8 0x41#8) := by decide
theorem test_decode_lt : decodeTableWord 48 0x3C2033203700 = some (.lt 0x33#8 0x37#8) := by decide
theorem test_decode_ne : decodeTableWord 48 0x212021202100 = some (.ne 0x21#8 0x21#8) := by decide
theorem test_decode_print : decodeTableWord 48 0x40207A000000 = some (.print 0x7A#8) := by decide
theorem test_decode_halt : decodeTableWord 48 0x2E0000000000 = some (.halt) := by decide
theorem test_decode_help : decodeTableWord 48 0x480000000000 = some (.help) := by decide

/-- Trailing space, tab and carriage return are allowed (R60). -/
theorem test_decode_trailing_whitespace :
    decodeTableWord 48 0x2B2033203420 = some (.add 0x33#8 0x34#8) ∧
    decodeTableWord 48 0x2B2033203409 = some (.add 0x33#8 0x34#8) ∧
    decodeTableWord 48 0x2B203320340D = some (.add 0x33#8 0x34#8) ∧
    decodeTableWord 48 0x480D00000000 = some .help ∧
    decodeTableWord 48 0x402041200000 = some (.print 0x41#8) := by decide

theorem test_decode_malformed_words :
    decodeTableWord 48 0x2E2031203200 = none ∧ decodeTableWord 48 0x487800000000 = none ∧
    decodeTableWord 48 0x202B20332034 = none ∧ decodeTableWord 48 0x680000000000 = none ∧
    decodeTableWord 48 0x2B2033000000 = none ∧ decodeTableWord 48 0x2B3320340000 = none ∧
    decodeTableWord 48 0x2B2020332034 = none ∧ decodeTableWord 48 0x2B2033203435 = none ∧
    decodeTableWord 48 0x404100000000 = none ∧ decodeTableWord 48 0x402020410000 = none ∧
    decodeTableWord 48 0x402041420000 = none ∧ decodeTableWord 48 0 = none := by decide

theorem test_decode_empty_line : decode [] = .ignored := by decide

/-- The port of `M 5 A` in section 1, S8: LEN = 5, IR = 0x4D2035204100. -/
theorem test_encode_port : encodePort 6 (.mov 0x35#8 0x41#8) = (5, 0x4D2035204100) := by decide

/-- The named fields of R51 on `+ 3 45`. -/
theorem test_ir_fields :
    [irOP, irS1, irX, irS2, irY, irT].map (fun f => f 6 0x2B2033203435) =
      [0x2B#8, 0x20#8, 0x33#8, 0x20#8, 0x34#8, 0x35#8] := by decide

/-! ## Instructions: sections 2.3 to 2.7 -/

theorem test_add_carries : arithAfter (block 8 200 7) 0x2B2041204100 = some (.ok, 144, 1, 144) := by decide
theorem test_add_width_three : arithAfter (block 3 0 0) 0x2B2039203900 = some (.ok, 2, 2, 2) := by decide
theorem test_sub_wraps : arithAfter (block 8 0 0) 0x2D2033203500 = some (.ok, 254, 255, 254) := by decide
theorem test_sub_width_two : arithAfter (block 2 0 0) 0x2D2030203900 = some (.ok, 3, 1, 3) := by decide
theorem test_mul_double_width : arithAfter (block 8 255 0) 0x2A2041204100 = some (.ok, 1, 254, 1) := by decide
theorem test_mul_width_32 :
    arithAfter (block 32 0xFFFFFFFF 0) 0x2A2041204100 = some (.ok, 1, 0xFFFFFFFE, 1) := by decide
theorem test_div_rounds_down : arithAfter (block 8 200 0) 0x2F2041203300 = some (.ok, 66, 0, 66) := by decide
/-- `/ 5 0` halts and writes nothing; `/ x 0` is unresolvable first (R93). -/
theorem test_div_by_zero :
    after { block 8 42 3 with mem0 := 1, mem1 := 42 } 0x2F2035203000 =
      some { block 8 42 3 with mem0 := 1, mem1 := 42, halted := true, status := .errInvalid, event := .diag, lineIndex := 1 } ∧
    shown (block 8 42 3) 0x2F2078203000 = some (.errUnresolvable, .diag) := by decide
theorem test_mov_copies : regsAfter (block 8 7 9) 0x4D2041204200 = some (.ok, 7, 7) ∧
    regsAfter (block 8 7 9) 0x4D2042204100 = some (.ok, 9, 9) := by decide
theorem test_mov_rejects :
    [0x4D2041204100, 0x4D2042204200, 0x4D2035203500, 0x4D2041203500, 0x4D2078204100, 0x4D2061204100].map
      (regsAfter (block 8 7 9)) = List.replicate 6 (some (.errInvalid, 7, 9)) := by decide
theorem test_eq_raw : shown (block 8 5 5) 0x3F2041204200 = some (.ok, .bool false) ∧
    shown (block 8 5 5) 0x3F2033203300 = some (.ok, .bool true) := by decide
/-- `> b A`, and 0xE9 against `A` under both readings of a code (section 2.5). -/
theorem test_gt_codes : shown (block 8 5 5) 0x3E2062204100 = some (.ok, .bool true) ∧
    shown (block 8 5 5) 0x3E20E9204100 = some (.ok, .bool true) ∧
    shown { block 8 5 5 with cfg := { Config.vnpu with charSigned := true } } 0x3E20E9204100 =
      some (.ok, .bool false) := by decide
theorem test_lt_codes : shown (block 8 5 5) 0x3C2039204100 = some (.ok, .bool true) ∧
    shown (block 8 5 5) 0x3C2078207800 = some (.ok, .bool false) := by decide
theorem test_ne_raw : shown (block 8 5 5) 0x212041204200 = some (.ok, .bool true) ∧
    shown (block 8 5 5) 0x212021202100 = some (.ok, .bool false) := by decide
theorem test_print_register : shown (block 8 254 3) 0x402041000000 = some (.ok, .dec 254) ∧
    shown (block 8 254 3) 0x402042000000 = some (.ok, .dec 3) := by decide
theorem test_print_character : shown (block 8 254 3) 0x402037000000 = some (.ok, .char 0x37#8) ∧
    shown (block 8 254 3) 0x402061000000 = some (.ok, .char 0x61#8) := by decide
theorem test_halt : after (block 8 1 0) 0x2E2000000000 =
    some { block 8 1 0 with halted := true, status := .halt, lineIndex := 1 } := by decide
theorem test_help : after (block 8 1 0) 0x480000000000 =
    some { block 8 1 0 with event := .help, lineIndex := 1 } := by decide

/-- A read of AX right after reset is recorded and goes on (log 4). -/
theorem test_unwritten_read_is_recorded :
    (after State.reset 0x2B2041203100).map (fun t => (t.status, t.uninitRead)) = some (.ok, true) ∧
    (after State.reset 0x2B2033203400).map (fun t => (t.status, t.uninitRead)) = some (.ok, false) := by decide

/-- Section 2.7: inputs of a HALTED block, Stop and Reset. -/
theorem test_halted_and_reset :
    nextOf (step { block 8 1 2 with halted := true, inputs := [.line [0x78#8]] }) =
      some { block 8 1 2 with halted := true, status := .idle } ∧
    nextOf (step { block 8 1 2 with inputs := [.stop] }) =
      some { block 8 1 2 with halted := true, status := .halt } ∧
    (nextOf (step { block 8 1 2 with halted := true, inputs := [.reset] })).map
      (fun t => (t.halted, t.wAX, t.status)) = some (false, false, .ok) := by decide

/-- Section 2.1's last rows: an overlong line and a NUL are refused by name, and so is a line feed (R102). -/
theorem test_host_duties :
    lineRefusal 6 [0x2B#8, 0x20#8, 0x33#8, 0x20#8, 0x34#8, 0x20#8, 0x35#8] = some .lineTooLong ∧
    lineRefusal 6 [0x2B#8, 0x20#8, 0x33#8, 0x00#8, 0x34#8] = some .nulInLine ∧
    lineRefusal 6 [0x2E#8, 0x0A#8] = some .lineFeedInLine := by decide

/-! ## Witnesses: a concrete case for the hypotheses of each statement, at a boundary for each clause -/

/-- `s` RUNNING with a line waiting. -/
def waiting (c : Line) : State := { State.reset with inputs := [.line c] }

theorem test_witness_DecodeOfEncodeIsIdentity :
    (Instr.add 0x21#8 0xFF#8).wf = true ∧ allSpace [] = true ∧ allSpace [0x0D#8] = true := by decide
theorem test_witness_DecodedLineIsEncodingPlusWhitespace :
    decode [0x40#8, 0x20#8, 0x41#8, 0x09#8] = .instr (.print 0x41#8) := by decide
theorem test_witness_PortCarriesEveryLine : ([0x2E#8] : Line).length ≤ 1 ∧ ([] : Line).length ≤ 0 := by decide
theorem test_witness_IrByteIsLineCharacter : ([0x2E#8] : Line).length ≤ 6 ∧ 0 < 6 ∧ 5 < 6 := by decide
theorem test_witness_UnknownOpcodeHaltsMalformed :
    (0x68#8 : Byte) ∉ [0x2B#8, 0x2D#8, 0x2A#8, 0x2F#8, 0x4D#8, 0x3F#8, 0x3E#8, 0x3C#8, 0x21#8, 0x40#8, 0x2E#8, 0x48#8] ∧
    (waiting [0x68#8]).halted = false ∧ (waiting [0x68#8]).inputs = [.line [0x68#8]] ∧
    lineRefusal 6 [0x68#8] = none := by decide
/-- Form U met and not met. -/
theorem test_witness_OneOperandFormExactly :
    decode [0x40#8, 0x20#8, 0x7A#8] = .instr (.print 0x7A#8) ∧
    decode [0x40#8] = .malformed .oneForm := by decide
/-- Form B met and not met, for the first and the last opcode of the list. -/
theorem test_witness_TwoOperandFormExactly :
    decode [0x2B#8, 0x20#8, 0x33#8, 0x20#8, 0x34#8] = .instr (.add 0x33#8 0x34#8) ∧
    decode [0x21#8, 0x20#8, 0x33#8] = .malformed .twoForm := by decide
theorem test_witness_MalformedCasesExactly :
    (waiting [0x2E#8, 0x78#8]).halted = false ∧ (waiting [0x2E#8, 0x78#8]).inputs = [.line [0x2E#8, 0x78#8]] ∧
    lineRefusal 6 [0x2E#8, 0x78#8] = none ∧ decode [0x2E#8, 0x78#8] = .malformed .zeroForm ∧
    decode [0x68#8] = .malformed .unknownOpcode ∧ decode [0x40#8] = .malformed .oneForm ∧
    decode [0x2B#8] = .malformed .twoForm ∧
    (nextOf (step (waiting [0x2E#8, 0x78#8]))).map (·.status) = some .errMalformed ∧
    (nextOf (step (waiting [0x2E#8]))).map (·.status) = some .halt := by decide
/-- A line that decodes to an instruction without operands. -/
theorem test_witness_ZeroOperandFormNeedsOnlyWhitespace :
    decode [0x48#8, 0x0D#8] = .instr .help ∧ Instr.help.operands = [] := by decide
theorem test_witness_WordReadsAsSumOfBits : (255 : Nat) < 2 ^ 8 ∧ (0 : Nat) < 2 ^ 0 := by decide
/-- A successful arithmetic instruction that changes the bank, and operands that resolve, the divisor not 0. -/
theorem test_witness_StoreResultSplitsAcrossBank :
    (nextOf (exec (.add 0x33#8 0x34#8) State.reset)).map (·.mem1) = some 7 ∧ State.reset.mem1 ≠ 7 ∧
    resolve 0x35#8 State.reset = some 5 ∧ resolve 0x31#8 State.reset = some 1 := by decide
/-- Both operands resolve at the ends of their range; an unresolvable byte in either place. -/
theorem test_witness_AddMeaning :
    resolve 0x39#8 (block 8 255 0) = some 9 ∧ resolve 0x41#8 (block 8 255 0) = some 255 ∧
    resolve 0x42#8 (block 8 255 0) = some 0 ∧ resolve 0x3A#8 (block 8 255 0) = none ∧
    4 ≤ (block 4 15 15).cfg.width ∧ (block 4 15 15).wordsFit ∧ operandOk 0x39#8 = true := by decide
theorem test_witness_SubMeaning :
    resolve 0x30#8 (block 8 0 0) = some 0 ∧ resolve 0x39#8 (block 8 0 0) = some 9 ∧
    resolve 0x2F#8 (block 8 0 0) = none := by decide
/-- No borrow at a = b, and a borrow at the largest difference. -/
theorem test_witness_SubBorrowPattern :
    4 ≤ (block 4 0 15).cfg.width ∧ (block 4 0 15).wordsFit ∧ resolve 0x41#8 (block 4 0 15) = some 0 ∧
    resolve 0x42#8 (block 4 0 15) = some 15 := by decide
theorem test_witness_MulMeaning :
    resolve 0x41#8 (block 4 15 15) = some 15 ∧ resolve 0x42#8 (block 4 15 15) = some 15 ∧
    resolve 0x40#8 (block 4 15 15) = none ∧ (block 4 15 15).wordsFit ∧ operandOk 0x41#8 = true := by decide
/-- Divisor 1, divisor 0, and an unresolvable byte. -/
theorem test_witness_DivMeaning :
    resolve 0x41#8 (block 4 15 1) = some 15 ∧ resolve 0x42#8 (block 4 15 1) = some 1 ∧
    resolve 0x42#8 (block 4 15 0) = some 0 ∧ resolve 0x43#8 (block 4 15 1) = none ∧
    (block 4 15 1).wordsFit := by decide
/-- One success and one of each error. -/
theorem test_witness_ArithmeticFrame :
    (nextOf (exec (.mul 0x41#8 0x42#8) (block 8 16 16))).map (·.status) = some .ok ∧
    (nextOf (exec (.sub 0x78#8 0x42#8) (block 8 16 16))).map (·.status) = some .errUnresolvable ∧
    (nextOf (exec (.div 0x41#8 0x30#8) (block 8 16 16))).map (·.status) = some .errInvalid := by decide
theorem test_witness_MovLoadsDigit :
    (0x30 ≤ (0x30#8 : Byte).toNat ∧ (0x30#8 : Byte).toNat ≤ 0x39) ∧
    (0x30 ≤ (0x39#8 : Byte).toNat ∧ (0x39#8 : Byte).toNat ≤ 0x39) := by decide
theorem test_witness_MovCopiesOtherRegister : (block 8 255 0).wordsFit := by decide
/-- A bad target, a bad source (the bytes next to the digits), and a source equal to the target. -/
theorem test_witness_MovRejectsOtherForms :
    ((0x35#8 : Byte) ≠ 0x41#8 ∧ (0x35#8 : Byte) ≠ 0x42#8) ∧ unresolvableByte 0x2F#8 ∧ unresolvableByte 0x3A#8 := by decide
theorem test_witness_MovFrame :
    (nextOf (exec (.mov 0x35#8 0x42#8) (block 8 7 9))).map (·.status) = some .ok ∧
    (nextOf (exec (.mov 0x35#8 0x35#8) (block 8 7 9))).map (·.status) = some .errInvalid := by decide
theorem test_witness_comparisons : operandOk 0x21#8 = true ∧ operandOk 0xFF#8 = true := by decide
theorem test_witness_NeComparesRawCharacters :
    nextOf (exec (.eq 0x41#8 0x42#8) (block 8 5 5)) = some { block 8 5 5 with status := .ok, event := .bool false } := by decide
theorem test_witness_CharSignedIrrelevantBelow80 : (0x7F#8 : Byte).toNat < 0x80 ∧ (0x00#8 : Byte).toNat < 0x80 := by decide
/-- Whitespace only, other text, and a line after `.`. -/
theorem test_witness_HaltMeaning :
    allSpace [] = true ∧ allSpace [0x20#8] = true ∧ allSpace [0x78#8] = false ∧
    (waiting [0x2E#8, 0x78#8]).halted = false ∧ lineRefusal 6 [0x2E#8, 0x78#8] = none ∧
    (nextOf (exec .halt (waiting [0x48#8]))).map (·.inputs) = some [.line [0x48#8]] ∧
    lineRefusal 6 [0x48#8] = none := by decide
theorem test_witness_HelpMeaning : allSpace [0x0D#8] = true ∧ allSpace [0x20#8, 0x31#8] = false := by decide
theorem test_witness_NonWritingInstructionsFrame :
    (nextOf (exec (.print 0x41#8) (block 8 254 3))).isSome = true ∧ (nextOf (exec .halt (block 8 254 3))).isSome = true ∧
    (nextOf (exec (.lt 0x41#8 0x42#8) (block 8 254 3))).isSome = true := by decide
theorem test_witness_UnresolvableOperandRaisers :
    (nextOf (exec (.add 0x31#8 0x61#8) (block 8 1 0))).map (·.status) = some .errUnresolvable := by decide
theorem test_witness_InvalidOperationRaisers :
    (nextOf (exec (.div 0x35#8 0x30#8) (block 8 1 0))).map (·.status) = some .errInvalid ∧
    (nextOf (exec (.mov 0x41#8 0x41#8) (block 8 1 0))).map (·.status) = some .errInvalid := by decide
theorem test_witness_ErrorsArePrecise :
    (nextOf (exec (.div 0x35#8 0x30#8) (block 8 1 0))).map (·.status.isError) = some true := by decide
theorem test_witness_UninitReadIsRecorded :
    (nextOf (exec (.mov 0x41#8 0x42#8) State.reset)).map (·.uninitRead) = some true := by decide
theorem test_witness_StepRunsDecodedInstruction :
    (waiting [0x40#8, 0x20#8, 0x41#8]).halted = false ∧
    (waiting [0x40#8, 0x20#8, 0x41#8]).inputs = [.line [0x40#8, 0x20#8, 0x41#8]] ∧
    lineRefusal 6 [0x40#8, 0x20#8, 0x41#8] = none ∧ decode [0x40#8, 0x20#8, 0x41#8] = .instr (.print 0x41#8) := by decide
theorem test_witness_EmptyLineIsIgnored : (waiting []).halted = false ∧ (waiting []).inputs = [.line []] := by decide
theorem test_witness_StopRequestHalts :
    (block 8 1 2).halted = false ∧ ({ block 8 1 2 with inputs := [.stop] } : State).inputs = [.stop] := by decide
theorem test_witness_HaltedInputsAreIdle :
    ({ block 8 1 2 with halted := true, inputs := [.stop] } : State).halted = true ∧ Input.stop ≠ .reset ∧
    Input.line [0x00#8] ≠ .reset := by decide
theorem test_witness_ResetInputStartsNewRun :
    ({ block 8 1 2 with halted := true, inputs := [.reset] } : State).inputs = [.reset] := by decide
/-- A line at LMAX and one past it. -/
theorem test_witness_StepRefusesExactlyUndutifulLines :
    lineRefusal 1 [0x2E#8] = none ∧ lineRefusal 0 [0x2E#8] ≠ none ∧ (waiting [0x00#8]).halted = false ∧
    lineRefusal (waiting [0x00#8]).cfg.lmax [0x00#8] ≠ none := by decide
theorem test_witness_StepTotalOnDutifulInputs :
    (Input.line [0x2E#8]).dutiful 1 = true ∧ Input.stop.dutiful 0 = true ∧ Input.reset.dutiful 0 = true := by decide
theorem test_witness_StepTakesOneInput :
    nextOf (step (waiting [])) = some { waiting [] with inputs := [], lineIndex := 1, status := .ignored } := by decide
theorem test_witness_OnlyTheseStepsChangeRunState :
    (nextOf (step (waiting [0x2E#8]))).map (·.halted) = some true ∧
    (nextOf (step { block 8 1 2 with halted := true, inputs := [.reset] })).map (·.halted) = some false := by decide
/-- Both request wires, one, and none. -/
theorem test_witness_WirePriority :
    arbitrate { reset := true, stop := true, line := some [] } = some .reset ∧
    arbitrate { reset := false, stop := true, line := some [] } = some .stop ∧
    arbitrate { reset := false, stop := false, line := some [] } = some (.line []) ∧
    arbitrate { reset := false, stop := false, line := none } = none := by decide
theorem test_witness_StepKeepsInv : State.reset.Inv ∧ (nextOf (step (waiting [0x48#8]))).isSome = true := by decide
theorem test_witness_HaltedBlockStaysUntilReset :
    ({ block 8 1 2 with halted := true, inputs := [.stop, .line [0x2E#8]] } : State).halted = true ∧
    Input.reset ∉ ({ block 8 1 2 with halted := true, inputs := [.stop, .line [0x2E#8]] } : State).inputs := by decide
/-- Two blocks that differ in AX, which nothing has written, and a certified step. -/
theorem test_witness_CertifiedStepIgnoresUnwrittenValues :
    (waiting [0x4D#8, 0x20#8, 0x35#8, 0x20#8, 0x42#8]).sameButUnwritten
      { waiting [0x4D#8, 0x20#8, 0x35#8, 0x20#8, 0x42#8] with ax := 77 } ∧
    (nextOf (step (waiting [0x4D#8, 0x20#8, 0x35#8, 0x20#8, 0x42#8]))).map (·.uninitRead) = some false := by decide
theorem test_witness_CertifiedRunsIgnoreUnwrittenValues :
    (waiting [0x48#8]).sameButUnwritten { waiting [0x48#8] with ax := 77 } ∧
    (nextOf (step (waiting [0x48#8]))).map (fun t => (t.uninitRead, t.event)) = some (false, .help) := by decide
/-- A step that leaves the bank, and the two that overwrite it. -/
theorem test_witness_BankIsNeverRead :
    (nextOf (step { waiting [0x48#8] with mem0 := 3, mem1 := 4 })).map (fun t => (t.mem0, t.mem1)) = some (3, 4) ∧
    (nextOf (step (waiting [0x2B#8, 0x20#8, 0x33#8, 0x20#8, 0x34#8]))).map (fun t => (t.mem0, t.mem1)) = some (0, 7) ∧
    (nextOf (step { block 8 1 2 with inputs := [.reset], mem0 := 3 })).isSome = true := by decide

end Sys2Proof.Tests
end

section
/-! PROOFS of the scope family (00_scope.md): `trunc_N` as the map onto the residues modulo `2^N`. -/

namespace Sys2Proof.Proofs

open Sys2Proof.Machine

/-- Two integers have the same `trunc_N` exactly when they are congruent modulo `2^N` (R11). -/
theorem trunc_eq_trunc_iff (n : Nat) (a b : Int) : trunc n a = trunc n b ↔ a ≡ b [ZMOD 2 ^ n] := by
  rw [← Int.natCast_inj, trunc_cast, trunc_cast, Int.ModEq]

/-- `trunc_N` fixes exactly the numbers below `2^N`. -/
theorem trunc_eq_self_iff (n t : Nat) : trunc n (t : Int) = t ↔ t < 2 ^ n := by
  rw [trunc_natCast, Nat.mod_eq_iff_lt (by positivity)]

/-- Settles O12: a number below `2^N` is its own `trunc_N`, so it is `trunc_N(r)` exactly when it is congruent to `r`. -/
theorem truncIsTheUniqueResidue : Obligations.TruncIsTheUniqueResidue := by
  intro n t r
  rw [← Int.modEq_iff_dvd, ← trunc_eq_trunc_iff]
  constructor
  · intro hres
    have hlt : t < 2 ^ n := hres ▸ trunc_lt n r
    exact ⟨hlt, by rw [hres, (trunc_eq_self_iff n t).2 hlt]⟩
  · rintro ⟨hlt, hcong⟩
    rw [hcong, (trunc_eq_self_iff n t).2 hlt]

end Sys2Proof.Proofs
end

section
/-! SUPPORT of the state family (10_state.md): what one instruction, and what one step, leaves behind. Each is said once, as a
relation with a constructor per case, and tied to the model by one lemma (`exec_effect`, `step_eq_next_iff`). -/

namespace Sys2Proof.Proofs

open Sys2Proof.Machine

/-- The four arithmetic instructions (40_arithmetic.md). -/
def IsArith (i : Instr) : Prop := ∃ x y, i = .add x y ∨ i = .sub x y ∨ i = .mul x y ∨ i = .div x y

/-- The instruction `M` (41_move.md). -/
def IsMove (i : Instr) : Prop := ∃ x y, i = .mov x y

/-- The six ways in which an instruction leaves the state. In each of them `u` is the record of UNINIT_READ (log 4). -/
inductive InstrEffect (i : Instr) (s : State) : State → Prop where
  /-- An error of `+ - * /` or `M` (60_exceptions.md R88). -/
  | failed (k : ErrorKind) (u : Bool) (hi : IsArith i ∨ IsMove i) :
      InstrEffect i s (failedWith (errorStatus k) u s)
  /-- A successful `+ - * /` with exact result `r` (R70). -/
  | computed (r : Int) (u : Bool) (hi : IsArith i) :
      InstrEffect i s
        (arithmeticDone (trunc s.cfg.width r) (storeResult r s).mem0 (storeResult r s).mem1 u s)
  /-- A successful `M` (R76). -/
  | moved (d : Reg) (v : Nat) (u : Bool) (hi : IsMove i) :
      InstrEffect i s (moveTo d v { s with uninitRead := u })
  /-- `@` of a register (R82). -/
  | printed (x : Byte) (r : Reg) (u : Bool) (hi : i = .print x) :
      InstrEffect i s (output .ok (.dec (readReg r s)) { s with uninitRead := u })
  /-- A comparison, `@` of a character, or `H`: an event that carries no register value (R77, R82, R84). -/
  | shown (e : Event) (hi : ¬ IsArith i ∧ ¬ IsMove i ∧ i ≠ .halt)
      (he : ∀ width, eventFits width .ok e = true) :
      InstrEffect i s (output .ok e s)
  /-- `.` (R83). -/
  | halted (hi : i = .halt) : InstrEffect i s (haltBlock s)

/-- An error is what `failedWith` describes, with the record as it was (R88). -/
theorem raise_eq_failedWith (k : ErrorKind) (s : State) :
    raise k s = failedWith (errorStatus k) s.uninitRead s := rfl

/-- An error after operand reads, which may have recorded UNINIT_READ (R88, R101). -/
theorem raise_recorded (k : ErrorKind) (u : Bool) (s : State) :
    raise k { s with uninitRead := u } = failedWith (errorStatus k) u s := rfl

/-- What a register read leaves is the state with UNINIT_READ recorded or not (R101). -/
theorem noteRead_eq (r : Reg) (s : State) : noteRead r s = { s with uninitRead := (noteRead r s).uninitRead } := rfl

/-- What two operand reads leave. -/
theorem noteResolve_noteResolve_eq (x y : Byte) (s : State) :
    ∃ u, noteResolve y (noteResolve x s) = { s with uninitRead := u } := by
  obtain ⟨u, hu⟩ := noteResolve_eq x s
  obtain ⟨v, hv⟩ := noteResolve_eq y (noteResolve x s)
  exact ⟨v, by rw [hv, hu]⟩

theorem arith_effect {i : Instr} (hi : IsArith i) (f : Nat → Nat → Option Int) (x y : Byte) (s : State) :
    InstrEffect i s (arith f x y s) := by
  obtain ⟨u, hu⟩ := noteResolve_eq x s
  obtain ⟨v, hv⟩ := noteResolve_noteResolve_eq x y s
  rcases arith_cases f x y s with ⟨-, h⟩ | ⟨a, -, -, h⟩ | ⟨a, b, -, -, -, h⟩ | ⟨a, b, r, -, -, -, h⟩
  · rw [h, raise_eq_failedWith]; exact .failed _ _ (.inl hi)
  · rw [h, hu, raise_recorded]; exact .failed _ _ (.inl hi)
  · rw [h, hv, raise_recorded]; exact .failed _ _ (.inl hi)
  · rw [h]; exact .computed r _ hi

theorem execMov_effect {x y : Byte} {s t : State} (h : execMov x y s = .next t) :
    InstrEffect (.mov x y) s t := by
  have hi : IsMove (.mov x y) := ⟨x, y, rfl⟩
  rcases execMov_cases x y s with hm | ⟨d, -, -, hm⟩ | ⟨d, r, -, -, -, -, hm⟩ <;> rw [hm] at h <;> cases h
  · exact .failed .invalidOperation _ (.inr hi)
  · exact .moved d _ s.uninitRead hi
  · rw [noteRead_eq]; exact .moved d _ _ hi

/-- The comparisons, `@`, `.` and `H` are neither arithmetic nor `M`. -/
theorem not_arith_not_move {i : Instr} (x y : Byte)
    (hi : i ∈ [Instr.eq x y, .gt x y, .lt x y, .ne x y, .print x, .halt, .help]) :
    ¬ IsArith i ∧ ¬ IsMove i := by
  simp only [List.mem_cons, List.not_mem_nil, or_false] at hi
  rcases hi with rfl | rfl | rfl | rfl | rfl | rfl | rfl <;> simp [IsArith, IsMove]

theorem execPrint_effect {x : Byte} {s t : State} (h : execPrint x s = .next t) :
    InstrEffect (.print x) s t := by
  rcases execPrint_cases x s with ⟨r, -, hp⟩ | ⟨-, hp⟩ <;> rw [hp] at h <;> cases h
  · rw [noteRead_eq]; exact .printed x r _ rfl
  · exact .shown _ (by simp [IsArith, IsMove]) fun _ => rfl

theorem compareRaw_effect {i : Instr} (hi : ¬ IsArith i ∧ ¬ IsMove i ∧ i ≠ .halt) (rel : Int → Int → Bool)
    (x y : Byte) (s : State) : InstrEffect i s (compareRaw rel x y s) :=
  .shown _ hi fun _ => rfl

/-- Everything an instruction can do (60_exceptions.md R86). -/
theorem exec_effect {i : Instr} {s t : State} (h : exec i s = .next t) : InstrEffect i s t := by
  cases i with
  | add x y => cases h; exact arith_effect ⟨x, y, by simp⟩ addResult x y s
  | sub x y => cases h; exact arith_effect ⟨x, y, by simp⟩ subResult x y s
  | mul x y => cases h; exact arith_effect ⟨x, y, by simp⟩ mulResult x y s
  | div x y => cases h; exact arith_effect ⟨x, y, by simp⟩ divResult x y s
  | mov x y => exact execMov_effect h
  | eq x y => cases h; exact compareRaw_effect (by simp [IsArith, IsMove]) relEq x y s
  | gt x y => cases h; exact compareRaw_effect (by simp [IsArith, IsMove]) relGt x y s
  | lt x y => cases h; exact compareRaw_effect (by simp [IsArith, IsMove]) relLt x y s
  | ne x y => cases h; exact compareRaw_effect (by simp [IsArith, IsMove]) relNe x y s
  | print x => exact execPrint_effect h
  | halt => cases h; exact .halted rfl
  | help => cases h; exact .shown .help (by simp [IsArith, IsMove]) fun _ => rfl

/-- The seven ways in which a step leaves a next state (R86). -/
inductive StepEffect (s : State) : State → Prop where
  /-- No input is waiting (log 6). -/
  | waited (hin : s.inputs = []) : StepEffect s s
  /-- Reset, in either run state (R103). -/
  | reset (rest : List Input) (hin : s.inputs = .reset :: rest) : StepEffect s (resetBlock (dropInput s))
  /-- A stop request while RUNNING (R92). -/
  | stopped (rest : List Input) (hin : s.inputs = .stop :: rest) (hrun : s.halted = false) :
      StepEffect s (haltBlock (dropInput s))
  /-- Any input but Reset while HALTED (R97). -/
  | idled (inp : Input) (rest : List Input) (hin : s.inputs = inp :: rest) (hne : inp ≠ .reset)
      (hhalt : s.halted = true) : StepEffect s (idleInput (dropInput s))
  /-- An empty line while RUNNING (R54). -/
  | ignored (c : Line) (rest : List Input) (hin : s.inputs = .line c :: rest) (hrun : s.halted = false)
      (hduty : lineRefusal s.cfg.lmax c = none) (hdec : decode c = .ignored) :
      StepEffect s (ignoreLine (takeLine s))
  /-- A malformed line while RUNNING (R89). -/
  | malformed (c : Line) (rest : List Input) (w : Malformed) (hin : s.inputs = .line c :: rest)
      (hrun : s.halted = false) (hduty : lineRefusal s.cfg.lmax c = none) (hdec : decode c = .malformed w) :
      StepEffect s (raise .malformedInstruction (takeLine s))
  /-- A line that decodes to an instruction, while RUNNING (R86). -/
  | ran (c : Line) (rest : List Input) (i : Instr) (t : State) (hin : s.inputs = .line c :: rest)
      (hrun : s.halted = false) (hduty : lineRefusal s.cfg.lmax c = none) (hdec : decode c = .instr i)
      (hexec : exec i (takeLine s) = .next t) : StepEffect s t

theorem runLine_stepEffect {s t : State} {c : Line} {rest : List Input} (hin : s.inputs = .line c :: rest)
    (hrun : s.halted = false) (h : runLine c (takeLine s) = .next t) : StepEffect s t := by
  rcases runLine_cases c (takeLine s) with ⟨r, -, hl⟩ | ⟨hd, hc, hl⟩ | ⟨w, hd, hc, hl⟩ | ⟨i, hd, hc, hl⟩ <;>
    rw [hl] at h
  · cases h
  · cases h; exact .ignored c rest hin hrun hd hc
  · cases h; exact .malformed c rest w hin hrun hd hc
  · exact .ran c rest i t hin hrun hd hc h

/-- A step leaves `t` exactly when `t` is what one of the seven cases leaves. -/
theorem step_eq_next_iff {s t : State} : step s = .next t ↔ StepEffect s t := by
  constructor
  · intro h
    rcases engineStep_cases s with ⟨hin, hs⟩ | ⟨rest, hin, hs⟩ | ⟨rest, hin, hrun, hs⟩ |
      ⟨c, rest, hin, hrun, hs⟩ | ⟨inp, rest, hin, hne, hhalt, hs⟩ <;> rw [step, hs] at h
    · cases h; exact .waited hin
    · cases h; exact .reset rest hin
    · cases h; exact .stopped rest hin hrun
    · exact runLine_stepEffect hin hrun h
    · cases h; exact .idled inp rest hin hne hhalt
  · intro h
    cases h with
    | waited hin => simp [step, engineStep, hin]
    | reset rest hin => simp [step, engineStep, hin]
    | stopped rest hin hrun => simp [step, engineStep, hin, hrun]
    | idled inp rest hin hne hhalt =>
      cases inp with
      | reset => exact absurd rfl hne
      | stop => simp [step, engineStep, hin, hhalt]
      | line c => simp [step, engineStep, hin, hhalt]
    | ignored c rest hin hrun hduty hdec => simp [step, engineStep, runLine, hin, hrun, hduty, hdec]
    | malformed c rest w hin hrun hduty hdec => simp [step, engineStep, runLine, hin, hrun, hduty, hdec]
    | ran c rest i t hin hrun hduty hdec hexec =>
      simp [step, engineStep, runLine, hin, hrun, hduty, hdec, hexec]

end Sys2Proof.Proofs
end

section
/-! PROOFS of the state family: the invariant (10_state.md R15, R23, R32, R33). -/

namespace Sys2Proof.Proofs

open Sys2Proof.Machine

/-- An error status reports HALTED (R32). -/
theorem isHalting_errorStatus (k : ErrorKind) : (errorStatus k).isHalting = true := by cases k <;> rfl

/-- DIAG comes with every error (R33). -/
theorem eventFits_errorStatus (width : Nat) (k : ErrorKind) : eventFits width (errorStatus k) .diag = true := by
  cases k <;> rfl

/-- A register of a state whose words fit holds a W-bit value (R15). -/
theorem readReg_lt {s : State} (h : s.wordsFit) (r : Reg) : readReg r s < 2 ^ s.cfg.width := by
  obtain ⟨hax, hbx, -, -⟩ := h
  cases r
  · exact hax
  · exact hbx

/-- A word that is written to the bank fits (R15, R23). -/
theorem storeResult_bank_lt (r : Int) (s : State) :
    (storeResult r s).mem0 < 2 ^ s.cfg.width ∧ (storeResult r s).mem1 < 2 ^ s.cfg.width :=
  ⟨trunc_high_lt _ r, Nat.mod_lt _ (by positivity)⟩

/-- An instruction that a RUNNING block carries out keeps the invariant. -/
theorem InstrEffect.keeps_inv {i : Instr} {s t : State} (hinv : s.Inv) (hrun : s.halted = false)
    (h : InstrEffect i s t) : t.Inv := by
  obtain ⟨hwords, -, -, hbank⟩ := hinv
  obtain ⟨hax, hbx, hm0, hm1⟩ := id hwords
  cases h with
  | failed k u => exact ⟨hwords, (isHalting_errorStatus k).symm, eventFits_errorStatus _ k, hbank⟩
  | computed r u =>
    obtain ⟨hhigh, hlow⟩ := storeResult_bank_lt r s
    exact ⟨⟨trunc_lt _ r, hbx, hhigh, hlow⟩, hrun, rfl, fun _ => rfl⟩
  | moved d v u =>
    have hv : decimalToBits s.cfg.width v < 2 ^ s.cfg.width := trunc_lt _ _
    cases d with
    | a => exact ⟨⟨hv, hbx, hm0, hm1⟩, hrun, rfl, fun _ => rfl⟩
    | b => exact ⟨⟨hax, hv, hm0, hm1⟩, hrun, rfl, hbank⟩
  | printed x r u => exact ⟨hwords, hrun, decide_eq_true (readReg_lt hwords r), hbank⟩
  | shown e hi he => exact ⟨hwords, hrun, he _, hbank⟩
  | halted => exact ⟨hwords, rfl, rfl, hbank⟩

/-- The state that Reset leaves meets the invariant, whatever the state before (R104). -/
theorem resetBlock_inv (s : State) : (resetBlock s).Inv := by
  have hpos : 0 < 2 ^ s.cfg.width := by positivity
  exact ⟨⟨hpos, hpos, hpos, hpos⟩, rfl, rfl, fun h => nomatch h⟩

/-- Settles O52: by cases on what the step does; an instruction runs only in a RUNNING block. -/
theorem stepKeepsInv : Obligations.StepKeepsInv := by
  intro s t hinv hstep
  obtain ⟨hwords, hstatus, hevent, hbank⟩ := id hinv
  cases step_eq_next_iff.1 hstep with
  | waited => exact hinv
  | reset => exact resetBlock_inv _
  | stopped => exact ⟨hwords, rfl, rfl, hbank⟩
  | idled inp rest hin hne hhalt => exact ⟨hwords, hhalt, rfl, hbank⟩
  | ignored c rest hin hrun => exact ⟨hwords, hrun, rfl, hbank⟩
  | malformed => exact ⟨hwords, rfl, rfl, hbank⟩
  | ran c rest i t hin hrun hduty hdec hexec =>
    have htaken : (takeLine s).Inv := ⟨hwords, hstatus, hevent, hbank⟩
    exact (exec_effect hexec).keeps_inv htaken hrun

end Sys2Proof.Proofs
end

section
/-! PROOFS of the state family: words and the bank (10_state.md R17, R23, R24). -/

namespace Sys2Proof.Proofs

open Sys2Proof.Machine

/-- The lowest `n + 1` bits of `w` are bit `n` above the lowest `n`. -/
theorem mod_two_pow_succ_eq (w n : Nat) : w % 2 ^ (n + 1) = (w.testBit n).toNat * 2 ^ n + w % 2 ^ n := by
  rw [Nat.pow_succ, Nat.mod_mul, ← Nat.toNat_testBit, Nat.mul_comm, Nat.add_comm]

/-- The weighted bits of `w` below position `width`, the most significant first, sum to `w` modulo `2^width`. -/
theorem sum_msbFirst_bits (width w : Nat) :
    ((List.range width).map fun i => (w.testBit (width - 1 - i)).toNat * 2 ^ (width - 1 - i)).sum =
      w % 2 ^ width := by
  induction width with
  | zero => simp [Nat.mod_one]
  | succ n ih =>
    have hidx : ∀ i, n + 1 - 1 - (i + 1) = n - 1 - i := by omega
    rw [List.range_succ_eq_map, List.map_cons, List.map_map, List.sum_cons, mod_two_pow_succ_eq, ← ih]
    simp only [Function.comp_def, Nat.succ_eq_add_one, hidx]
    rfl

/-- Settles O13: the sum is `w` modulo `2^width`, which is `w`. -/
theorem wordReadsAsSumOfBits : Obligations.WordReadsAsSumOfBits := by
  intro width w hw
  exact ⟨by rw [sum_msbFirst_bits, Nat.mod_eq_of_lt hw]; rfl, rfl⟩

/-- Only a successful arithmetic instruction changes the bank or its ghost bit (R23). -/
theorem InstrEffect.bank_eq_or_computed {i : Instr} {s t : State} (h : InstrEffect i s t) :
    (t.mem0 = s.mem0 ∧ t.mem1 = s.mem1 ∧ t.wMEM = s.wMEM) ∨ (t.status = .ok ∧ IsArith i) := by
  cases h with
  | failed => exact .inl ⟨rfl, rfl, rfl⟩
  | computed r u hi => exact .inr ⟨rfl, hi⟩
  | moved d => cases d <;> exact .inl ⟨rfl, rfl, rfl⟩
  | printed => exact .inl ⟨rfl, rfl, rfl⟩
  | shown => exact .inl ⟨rfl, rfl, rfl⟩
  | halted => exact .inl ⟨rfl, rfl, rfl⟩

section
variable {f : Nat → Nat → Option Int} {x y : Byte} {s : State} {a b : Nat} {r : Int}

/-- The datapath, one equation for each outcome (40_arithmetic.md R70). -/
theorem arith_of_unresolved_left (hx : resolve x s = none) : arith f x y s = raise .unresolvableOperand s := by
  simp [arith, hx]

theorem arith_of_unresolved_right (hx : resolve x s = some a) (hy : resolve y s = none) :
    arith f x y s = raise .unresolvableOperand (noteResolve x s) := by
  simp [arith, hx, hy]

theorem arith_of_no_result (hx : resolve x s = some a) (hy : resolve y s = some b) (hf : f a b = none) :
    arith f x y s = raise .invalidOperation (noteResolve y (noteResolve x s)) := by
  simp [arith, hx, hy, hf]

theorem arith_of_result (hx : resolve x s = some a) (hy : resolve y s = some b) (hf : f a b = some r) :
    arith f x y s =
      output .ok .none
        (storeResult r (writeReg .a (trunc s.cfg.width r) (noteResolve y (noteResolve x s)))) := by
  simp [arith, hx, hy, hf, decimalToBits]

end

/-- Each arithmetic instruction is the datapath with its own exact result (R71 to R74). -/
theorem exec_arith_of_mem {x y : Byte} {a b : Nat} {i : Instr} {r : Int} (s : State) (hdiv : i = .div x y → b ≠ 0)
    (hi : (i, r) ∈ [(Instr.add x y, (a : Int) + b), (.sub x y, (a : Int) - b), (.mul x y, (a : Int) * b),
      (.div x y, ((a / b : Nat) : Int))]) :
    ∃ f, exec i s = .next (arith f x y s) ∧ f a b = some r := by
  simp only [List.mem_cons, List.not_mem_nil, or_false, Prod.mk.injEq] at hi
  rcases hi with ⟨rfl, rfl⟩ | ⟨rfl, rfl⟩ | ⟨rfl, rfl⟩ | ⟨rfl, rfl⟩
  · exact ⟨addResult, rfl, rfl⟩
  · exact ⟨subResult, rfl, rfl⟩
  · exact ⟨mulResult, rfl, rfl⟩
  · exact ⟨divResult, rfl, if_neg (hdiv rfl)⟩

/-- Settles O15: the halves of `trunc_2W(r)`, the one effect that writes the bank, and the datapath on resolved operands. -/
theorem storeResultSplitsAcrossBank : Obligations.StoreResultSplitsAcrossBank := by
  refine ⟨fun r s => ?split, fun i s t hexec hchanged => ?onlyArith, fun x y s a b i r hx hy hdiv hi => ?stored⟩
  case split =>
    obtain ⟨hhigh, hlow⟩ := storeResult_bank_lt r s
    exact ⟨_, _, rfl, hhigh, hlow, trunc_halves _ r⟩
  case onlyArith =>
    rcases (exec_effect hexec).bank_eq_or_computed with ⟨h0, h1, hw⟩ | hdone
    · simp [h0, h1, hw] at hchanged
    · exact hdone
  case stored =>
    obtain ⟨f, hexec, hf⟩ := exec_arith_of_mem s hdiv hi
    exact ⟨_, hexec, by simp [arith_of_result hx hy hf]⟩

/-- The state with another bank (R22). -/
def withBank (m0 m1 : Word) (s : State) : State := { s with mem0 := m0, mem1 := m1 }

theorem readReg_withBank (r : Reg) (m0 m1 : Word) (s : State) : readReg r (withBank m0 m1 s) = readReg r s := by
  cases r <;> rfl

/-- Resolving an operand does not look at the bank (20_memory.md R35). -/
theorem resolve_withBank (ch : Byte) (m0 m1 : Word) (s : State) : resolve ch (withBank m0 m1 s) = resolve ch s := by
  unfold resolve
  cases select ch with
  | digit d => rfl
  | reg r => simp only [readReg_withBank]
  | err => rfl

theorem noteRead_withBank (r : Reg) (m0 m1 : Word) (s : State) :
    noteRead r (withBank m0 m1 s) = withBank m0 m1 (noteRead r s) := by cases r <;> rfl

theorem noteResolve_withBank (ch : Byte) (m0 m1 : Word) (s : State) :
    noteResolve ch (withBank m0 m1 s) = withBank m0 m1 (noteResolve ch s) := by
  unfold noteResolve
  cases select ch with
  | digit d => rfl
  | reg r => exact noteRead_withBank r m0 m1 s
  | err => rfl

/-- From `s` the outcome is `t`, which keeps the bank of `s`; from `s` with the bank `m0`, `m1` it is `o`, which is `t` with that
bank. -/
def BankCarried (m0 m1 : Word) (s t : State) (o : Host.Outcome State Fault Refusal) : Prop :=
  t.mem0 = s.mem0 ∧ t.mem1 = s.mem1 ∧ o = .next (withBank m0 m1 t)

/-- Instruction `i` carries the bank along, or it is a successful `+ - * /` that overwrites either bank with the same words. -/
def BankUnread (i : Instr) (m0 m1 : Word) (s t : State) (o : Host.Outcome State Fault Refusal) : Prop :=
  BankCarried m0 m1 s t o ∨ (o = .next t ∧ t.status = .ok ∧ IsArith i)

theorem moveTo_withBank (d : Reg) (v : Nat) (m0 m1 : Word) (s : State) :
    BankCarried m0 m1 s (moveTo d v s) (.next (moveTo d v (withBank m0 m1 s))) := by
  cases d <;> exact ⟨rfl, rfl, rfl⟩

/-- The arithmetic datapath carries the bank along where it fails and overwrites it where it succeeds. -/
theorem arith_withBank {i : Instr} (hi : IsArith i) (f : Nat → Nat → Option Int) (x y : Byte) (m0 m1 : Word)
    (s : State) : BankUnread i m0 m1 s (arith f x y s) (.next (arith f x y (withBank m0 m1 s))) := by
  have hxb := resolve_withBank x m0 m1 s
  have hyb := resolve_withBank y m0 m1 s
  rcases arith_cases f x y s with ⟨hx, -⟩ | ⟨a, hx, hy, -⟩ | ⟨a, b, hx, hy, hf, -⟩ | ⟨a, b, r, hx, hy, hf, -⟩
  · rw [arith_of_unresolved_left hx, arith_of_unresolved_left (hxb.trans hx)]
    exact .inl ⟨rfl, rfl, rfl⟩
  · rw [arith_of_unresolved_right hx hy, arith_of_unresolved_right (hxb.trans hx) (hyb.trans hy),
      noteResolve_withBank]
    exact .inl ⟨by simp, by simp, rfl⟩
  · rw [arith_of_no_result hx hy hf, arith_of_no_result (hxb.trans hx) (hyb.trans hy) hf,
      noteResolve_withBank, noteResolve_withBank]
    exact .inl ⟨by simp, by simp, rfl⟩
  · rw [arith_of_result hx hy hf, arith_of_result (hxb.trans hx) (hyb.trans hy) hf,
      noteResolve_withBank, noteResolve_withBank]
    exact .inr ⟨rfl, rfl, hi⟩

/-- `M` carries the bank along: it takes its value from a digit or a register (41_move.md R76). -/
theorem execMov_withBank {x y : Byte} {s t : State} (m0 m1 : Word) (h : execMov x y s = .next t) :
    BankCarried m0 m1 s t (execMov x y (withBank m0 m1 s)) := by
  unfold execMov at h ⊢
  cases hy : regOf y with
  | none => simp only [hy] at h ⊢; cases h; exact ⟨rfl, rfl, rfl⟩
  | some d =>
    cases hsrc : moveSource x d with
    | none => simp only [hy, hsrc] at h ⊢; cases h; exact ⟨rfl, rfl, rfl⟩
    | some src =>
      cases src with
      | immediate v =>
        simp only [hy, hsrc] at h ⊢; cases h
        exact moveTo_withBank d v m0 m1 s
      | register r =>
        simp only [hy, hsrc, readReg_withBank, noteRead_withBank] at h ⊢; cases h
        exact moveTo_withBank d _ m0 m1 (noteRead r s)

/-- `@` carries the bank along (43_print.md R82). -/
theorem execPrint_withBank {x : Byte} {s t : State} (m0 m1 : Word) (h : execPrint x s = .next t) :
    BankCarried m0 m1 s t (execPrint x (withBank m0 m1 s)) := by
  unfold execPrint at h ⊢
  cases hx : regOf x with
  | none => simp only [hx] at h ⊢; cases h; exact ⟨rfl, rfl, rfl⟩
  | some r =>
    simp only [hx, readReg_withBank, noteRead_withBank] at h ⊢; cases h
    exact ⟨rfl, rfl, rfl⟩

/-- Every instruction either carries the bank along or, being a successful `+ - * /`, overwrites it (10_state.md R24). -/
theorem exec_withBank {i : Instr} {s t : State} (m0 m1 : Word) (h : exec i s = .next t) :
    BankUnread i m0 m1 s t (exec i (withBank m0 m1 s)) := by
  cases i with
  | add x y => cases h; exact arith_withBank ⟨x, y, by simp⟩ addResult x y m0 m1 s
  | sub x y => cases h; exact arith_withBank ⟨x, y, by simp⟩ subResult x y m0 m1 s
  | mul x y => cases h; exact arith_withBank ⟨x, y, by simp⟩ mulResult x y m0 m1 s
  | div x y => cases h; exact arith_withBank ⟨x, y, by simp⟩ divResult x y m0 m1 s
  | mov x y => exact .inl (execMov_withBank m0 m1 h)
  | print x => exact .inl (execPrint_withBank m0 m1 h)
  | eq x y | gt x y | lt x y | ne x y | halt | help => cases h; exact .inl ⟨rfl, rfl, rfl⟩

/-- Settles O56: by cases on what the step does; only an instruction's own case has anything to show. -/
theorem bankIsNeverRead : Obligations.BankIsNeverRead := by
  intro s s' m0 m1 hstep
  change BankCarried m0 m1 s s' (step (withBank m0 m1 s)) ∨ (step (withBank m0 m1 s) = .next s' ∧ _)
  cases step_eq_next_iff.1 hstep with
  | waited hin => exact .inl ⟨rfl, rfl, step_eq_next_iff.2 (.waited hin)⟩
  | reset rest hin => exact .inr ⟨step_eq_next_iff.2 (.reset rest hin), .inl ⟨rest, hin⟩⟩
  | stopped rest hin hrun => exact .inl ⟨rfl, rfl, step_eq_next_iff.2 (.stopped rest hin hrun)⟩
  | idled inp rest hin hne hhalt => exact .inl ⟨rfl, rfl, step_eq_next_iff.2 (.idled inp rest hin hne hhalt)⟩
  | ignored c rest hin hrun hduty hdec =>
    exact .inl ⟨rfl, rfl, step_eq_next_iff.2 (.ignored c rest hin hrun hduty hdec)⟩
  | malformed c rest w hin hrun hduty hdec =>
    exact .inl ⟨rfl, rfl, step_eq_next_iff.2 (.malformed c rest w hin hrun hduty hdec)⟩
  | ran c rest i t hin hrun hduty hdec hexec =>
    rcases exec_withBank m0 m1 hexec with ⟨h0, h1, hexec'⟩ | ⟨hexec', hok, x, y, hi⟩
    · exact .inl ⟨h0, h1, step_eq_next_iff.2 (.ran c rest i _ hin hrun hduty hdec hexec')⟩
    · have hdecIn : decode c ∈
          [Decoded.instr (.add x y), .instr (.sub x y), .instr (.mul x y), .instr (.div x y)] := by
        simpa [hdec] using hi
      exact .inr ⟨step_eq_next_iff.2 (.ran c rest i _ hin hrun hduty hdec hexec'),
        .inr ⟨hrun, hok, c, rest, x, y, hin, hdecIn⟩⟩

end Sys2Proof.Proofs
end

section
/-! PROOFS of the state family: the frame of the instructions that write nothing, the inputs, the run state and the port codes
(10_state.md R19, R21, R25, R31 to R33). -/

namespace Sys2Proof.Proofs

open Sys2Proof.Machine

/-- Settles O34: of the six effects only those of a comparison, `@`, `.` and `H` are left. -/
theorem nonWritingInstructionsFrame : Obligations.NonWritingInstructionsFrame := by
  intro x y s t i hi hexec
  obtain ⟨harith, hmove⟩ := not_arith_not_move x y hi
  cases exec_effect hexec with
  | failed k u hbad => exact absurd hbad (by simp [harith, hmove])
  | computed r u hbad => exact absurd hbad harith
  | moved d v u hbad => exact absurd hbad hmove
  | printed x' r u hprint =>
    have hx : i = .print x := by simpa [hprint] using hi
    simp [hx]
  | shown => simp
  | halted hhalt => simp [hhalt]

/-- No instruction changes the configuration, the inputs or the line index (10_state.md R21). -/
theorem InstrEffect.keeps_ports {i : Instr} {s t : State} (h : InstrEffect i s t) :
    t.cfg = s.cfg ∧ t.inputs = s.inputs ∧ t.lineIndex = s.lineIndex := by
  cases h with
  | moved d => cases d <;> exact ⟨rfl, rfl, rfl⟩
  | _ => exact ⟨rfl, rfl, rfl⟩

/-- Settles O47: by cases on what the step does. -/
theorem stepTakesOneInput : Obligations.StepTakesOneInput := by
  intro s t hstep
  cases step_eq_next_iff.1 hstep with
  | waited hin => simp [hin]
  | reset rest hin => simp [hin]
  | stopped rest hin => simp [hin]
  | idled inp rest hin hne hhalt =>
    cases inp with
    | reset => exact absurd rfl hne
    | stop => simp [hin]
    | line c => simp [hin, hhalt]
  | ignored c rest hin hrun => simp [hin, hrun]
  | malformed c rest w hin hrun => simp [hin, hrun]
  | ran c rest i t hin hrun hduty hdec hexec =>
    obtain ⟨hcfg, hinputs, hindex⟩ := (exec_effect hexec).keeps_ports
    simp [hcfg, hinputs, hindex, hin, hrun]

/-- An instruction changes the run state only if it is `.` or ends in an error (10_state.md R25). -/
theorem InstrEffect.halted_cases {i : Instr} {s t : State} (h : InstrEffect i s t) :
    t.halted = s.halted ∨ t.status.isError = true ∨ i = .halt := by
  cases h with
  | failed k => cases k <;> exact .inr (.inl rfl)
  | computed => exact .inl rfl
  | moved d => cases d <;> exact .inl rfl
  | printed => exact .inl rfl
  | shown => exact .inl rfl
  | halted hi => exact .inr (.inr hi)

/-- Settles O48: by cases on what the step does. -/
theorem onlyTheseStepsChangeRunState : Obligations.OnlyTheseStepsChangeRunState := by
  intro s t hstep
  cases step_eq_next_iff.1 hstep with
  | waited => cases hrun : s.halted <;> simp
  | reset rest hin => exact ⟨fun _ h => (nomatch h), fun _ _ => ⟨rest, hin⟩⟩
  | stopped rest hin hrun => exact ⟨fun _ _ => .inl ⟨rest, hin⟩, fun _ h => nomatch h⟩
  | idled inp rest hin hne hhalt => simp [hhalt]
  | ignored c rest hin hrun => simp [hrun]
  | malformed => exact ⟨fun _ _ => .inr (.inl rfl), fun _ h => nomatch h⟩
  | ran c rest i t hin hrun hduty hdec hexec =>
    refine ⟨fun _ hhalted => ?_, fun hhalt => by simp [hrun] at hhalt⟩
    rcases (exec_effect hexec).halted_cases with hsame | herr | rfl
    · simp [hsame, hrun] at hhalted
    · exact .inr (.inl herr)
    · exact .inr (.inr ⟨c, rest, hin, hdec⟩)

/-- The reserved code is never produced (R32). -/
theorem status_code_ne_reserved (st : Status) : st.code ≠ 7#3 := by cases st <;> decide

/-- Settles O50: each code as its table row gives it. -/
theorem statusAndEventCodeTables : Obligations.StatusAndEventCodeTables :=
  ⟨rfl, rfl, rfl, rfl, rfl, rfl, rfl, status_code_ne_reserved,
    rfl, fun _ => rfl, fun _ => rfl, fun _ => rfl, rfl, rfl⟩

end Sys2Proof.Proofs
end

section
/-! SUPPORT of the encoding family (30_encoding.md): the opcode map, each form of the decoder, and what a decoded line is. -/

namespace Sys2Proof.Proofs

open Sys2Proof.Machine

theorem allSpace_iff (cs : Line) : allSpace cs = true ↔ ∀ ch ∈ cs, isSpace ch = true := List.all_eq_true

/-- The twelve opcode characters, in the order of the opcode map (R49, R66). -/
theorem opcodeMap_keys : opcodeMap.map Prod.fst =
    [0x2B#8, 0x2D#8, 0x2A#8, 0x2F#8, 0x4D#8, 0x3F#8, 0x3E#8, 0x3C#8, 0x21#8, 0x40#8, 0x2E#8, 0x48#8] := rfl

/-- A character selects no row exactly when it is no opcode (R55). -/
theorem shapeOf_eq_none_iff (op : Byte) : shapeOf op = none ↔ op ∉ opcodeMap.map Prod.fst := by
  simp only [shapeOf, List.lookup_eq_none_iff, bne_iff_ne, List.mem_map, not_exists, not_and]
  exact forall₂_congr fun _ _ => ne_comm

section rows
variable {op : Byte}

/-- A row without operands writes its instruction as the opcode alone (R52, R68). -/
theorem encode_of_shapeOf_zero {i : Instr} (h : shapeOf op = some (.zero i)) :
    encode i = [op] ∧ i.operands = [] := by
  have hrow := shapeOf_mem op _ h
  simp only [opcodeMap, List.mem_cons, List.not_mem_nil, Prod.mk.injEq, Shape.zero.injEq, reduceCtorEq,
    and_false, or_false, false_or] at hrow
  rcases hrow with ⟨rfl, rfl⟩ | ⟨rfl, rfl⟩ <;> exact ⟨rfl, rfl⟩

/-- The row of one operand writes its instruction in form U. -/
theorem encode_of_shapeOf_one {mk : Byte → Instr} (h : shapeOf op = some (.one mk)) (x : Byte) :
    encode (mk x) = lineOne op x ∧ (mk x).operands = [x] := by
  have hrow := shapeOf_mem op _ h
  simp only [opcodeMap, List.mem_cons, List.not_mem_nil, Prod.mk.injEq, Shape.one.injEq, reduceCtorEq,
    and_false, or_false, false_or] at hrow
  obtain ⟨rfl, rfl⟩ := hrow
  exact ⟨rfl, rfl⟩

/-- A row of two operands writes its instruction in form B. -/
theorem encode_of_shapeOf_two {mk : Byte → Byte → Instr} (h : shapeOf op = some (.two mk)) (x y : Byte) :
    encode (mk x y) = lineTwo op x y ∧ (mk x y).operands = [x, y] := by
  have hrow := shapeOf_mem op _ h
  simp only [opcodeMap, List.mem_cons, List.not_mem_nil, Prod.mk.injEq, Shape.two.injEq, reduceCtorEq,
    and_false, or_false] at hrow
  rcases hrow with ⟨rfl, rfl⟩ | ⟨rfl, rfl⟩ | ⟨rfl, rfl⟩ | ⟨rfl, rfl⟩ | ⟨rfl, rfl⟩ | ⟨rfl, rfl⟩ |
    ⟨rfl, rfl⟩ | ⟨rfl, rfl⟩ | ⟨rfl, rfl⟩ <;> exact ⟨rfl, rfl⟩

end rows

section forms
variable {op : Byte} {rest : Line}

/-- The decoder on a line that is not empty, one equation for each kind of row (R53). -/
theorem decode_of_shapeOf_none (h : shapeOf op = none) : decode (op :: rest) = .malformed .unknownOpcode := by
  rw [decode_cons, h]

theorem decode_of_shapeOf_zero {i : Instr} (h : shapeOf op = some (.zero i)) :
    decode (op :: rest) = decodeZero i rest := by rw [decode_cons, h]

theorem decode_of_shapeOf_one {mk : Byte → Instr} (h : shapeOf op = some (.one mk)) :
    decode (op :: rest) = decodeOne mk rest := by rw [decode_cons, h]

theorem decode_of_shapeOf_two {mk : Byte → Byte → Instr} (h : shapeOf op = some (.two mk)) :
    decode (op :: rest) = decodeTwo mk rest := by rw [decode_cons, h]

/-- Form Z met, and not met (R56, R59). -/
theorem decodeZero_cases (i : Instr) (rest : Line) :
    (allSpace rest = true ∧ decodeZero i rest = .instr i) ∨
    (allSpace rest = false ∧ decodeZero i rest = .malformed .zeroForm) := by
  cases h : allSpace rest <;> simp [decodeZero, h]

/-- Form U met (R57). -/
theorem decodeOne_of_form (mk : Byte → Instr) {x : Byte} {tail : Line} (hx : isSpace x = false)
    (ht : allSpace tail = true) : decodeOne mk (chSpace :: x :: tail) = .instr (mk x) := by
  simp [decodeOne, hx, ht]

/-- Form U met, and not met (R57, R60). -/
theorem decodeOne_cases (mk : Byte → Instr) (rest : Line) :
    (∃ x tail, rest = chSpace :: x :: tail ∧ isSpace x = false ∧ allSpace tail = true ∧
      decodeOne mk rest = .instr (mk x)) ∨
    decodeOne mk rest = .malformed .oneForm := by
  unfold decodeOne
  split
  next s1 x tail =>
    split
    next hform =>
      simp only [Bool.and_eq_true, beq_iff_eq, Bool.not_eq_true'] at hform
      obtain ⟨⟨rfl, hx⟩, ht⟩ := hform
      exact .inl ⟨x, tail, rfl, hx, ht, rfl⟩
    next => exact .inr rfl
  next => exact .inr rfl

/-- Form B met (R58). -/
theorem decodeTwo_of_form (mk : Byte → Byte → Instr) {x y : Byte} {tail : Line} (hx : isSpace x = false)
    (hy : isSpace y = false) (ht : allSpace tail = true) :
    decodeTwo mk (chSpace :: x :: chSpace :: y :: tail) = .instr (mk x y) := by
  simp [decodeTwo, hx, hy, ht]

/-- Form B met, and not met (R58, R60). -/
theorem decodeTwo_cases (mk : Byte → Byte → Instr) (rest : Line) :
    (∃ x y tail, rest = chSpace :: x :: chSpace :: y :: tail ∧ isSpace x = false ∧ isSpace y = false ∧
      allSpace tail = true ∧ decodeTwo mk rest = .instr (mk x y)) ∨
    decodeTwo mk rest = .malformed .twoForm := by
  unfold decodeTwo
  split
  next s1 x s2 y tail =>
    split
    next hform =>
      simp only [Bool.and_eq_true, beq_iff_eq, Bool.not_eq_true'] at hform
      obtain ⟨⟨⟨⟨rfl, rfl⟩, hx⟩, hy⟩, ht⟩ := hform
      exact .inl ⟨x, y, tail, rfl, hx, hy, ht, rfl⟩
    next => exact .inr rfl
  next => exact .inr rfl

end forms

/-- Line `c` is instruction `i` written out, its operands not whitespace, followed by whitespace only (R52, R60, R68). -/
def IsWritten (i : Instr) (c : Line) : Prop :=
  (∀ b ∈ i.operands, isSpace b = false) ∧ ∃ tail, allSpace tail = true ∧ c = encode i ++ tail

theorem isWritten_halt_iff (c : Line) :
    IsWritten .halt c ↔ ∃ tail, c = 0x2E#8 :: tail ∧ ∀ ch ∈ tail, isSpace ch = true := by
  simp [IsWritten, Instr.operands, encode, opHalt, allSpace_iff, and_comm]

theorem isWritten_help_iff (c : Line) :
    IsWritten .help c ↔ ∃ tail, c = 0x48#8 :: tail ∧ ∀ ch ∈ tail, isSpace ch = true := by
  simp [IsWritten, Instr.operands, encode, opHelp, allSpace_iff, and_comm]

/-- Form U (R57). -/
theorem isWritten_one_iff {op : Byte} {mk : Byte → Instr} (h : shapeOf op = some (.one mk)) (x : Byte) (rest : Line) :
    IsWritten (mk x) (op :: rest) ↔
      ∃ tail, rest = 0x20#8 :: x :: tail ∧ isSpace x = false ∧ ∀ ch ∈ tail, isSpace ch = true := by
  obtain ⟨henc, hops⟩ := encode_of_shapeOf_one h x
  simp only [IsWritten, henc, hops, lineOne, chSpace, allSpace_iff, List.mem_singleton, forall_eq,
    List.cons_append, List.nil_append, List.cons.injEq, true_and]
  exact ⟨fun ⟨hx, tail, ht, hrest⟩ => ⟨tail, hrest, hx, ht⟩,
    fun ⟨tail, hrest, hx, ht⟩ => ⟨hx, tail, ht, hrest⟩⟩

/-- Form B (R58). -/
theorem isWritten_two_iff {op : Byte} {mk : Byte → Byte → Instr} (h : shapeOf op = some (.two mk)) (x y : Byte)
    (rest : Line) :
    IsWritten (mk x y) (op :: rest) ↔
      ∃ tail, rest = 0x20#8 :: x :: 0x20#8 :: y :: tail ∧ isSpace x = false ∧ isSpace y = false ∧
        ∀ ch ∈ tail, isSpace ch = true := by
  obtain ⟨henc, hops⟩ := encode_of_shapeOf_two h x y
  simp only [IsWritten, henc, hops, lineTwo, chSpace, allSpace_iff, List.mem_cons, List.not_mem_nil, or_false,
    forall_eq_or_imp, forall_eq, List.cons_append, List.nil_append, List.cons.injEq, true_and]
  exact ⟨fun ⟨⟨hx, hy⟩, tail, ht, hrest⟩ => ⟨tail, hrest, hx, hy, ht⟩,
    fun ⟨tail, hrest, hx, hy, ht⟩ => ⟨⟨hx, hy⟩, tail, ht, hrest⟩⟩

section lines
variable {i : Instr} {c : Line}

/-- Only instruction `i` written out decodes to `i`: by the row that the first character selects. -/
theorem isWritten_of_decode (h : decode c = .instr i) : IsWritten i c := by
  cases c with
  | nil => simp [decode] at h
  | cons op rest =>
    cases hop : shapeOf op with
    | none => simp [decode_of_shapeOf_none hop] at h
    | some sh =>
      cases sh with
      | zero j =>
        rw [decode_of_shapeOf_zero hop] at h
        rcases decodeZero_cases j rest with ⟨hrest, hj⟩ | ⟨-, hj⟩ <;> rw [hj] at h <;> cases h
        obtain ⟨henc, hops⟩ := encode_of_shapeOf_zero hop
        exact ⟨by simp [hops], rest, hrest, by simp [henc]⟩
      | one mk =>
        rw [decode_of_shapeOf_one hop] at h
        rcases decodeOne_cases mk rest with ⟨x, tail, hrest, hx, ht, hj⟩ | hj <;> rw [hj] at h <;> cases h
        exact (isWritten_one_iff hop x rest).2 ⟨tail, hrest, hx, (allSpace_iff tail).1 ht⟩
      | two mk =>
        rw [decode_of_shapeOf_two hop] at h
        rcases decodeTwo_cases mk rest with ⟨x, y, tail, hrest, hx, hy, ht, hj⟩ | hj <;> rw [hj] at h <;> cases h
        exact (isWritten_two_iff hop x y rest).2 ⟨tail, hrest, hx, hy, (allSpace_iff tail).1 ht⟩

theorem decode_lineOne {op : Byte} {mk : Byte → Instr} (hop : shapeOf op = some (.one mk)) {x : Byte} {tail : Line}
    (hx : isSpace x = false) (ht : allSpace tail = true) : decode (lineOne op x ++ tail) = .instr (mk x) :=
  (decode_of_shapeOf_one hop).trans (decodeOne_of_form mk hx ht)

theorem decode_lineTwo {op : Byte} {mk : Byte → Byte → Instr} (hop : shapeOf op = some (.two mk)) {x y : Byte}
    {tail : Line} (hx : isSpace x = false) (hy : isSpace y = false) (ht : allSpace tail = true) :
    decode (lineTwo op x y ++ tail) = .instr (mk x y) :=
  (decode_of_shapeOf_two hop).trans (decodeTwo_of_form mk hx hy ht)

/-- Instruction `i` written out decodes to `i`: by the row that `i` is built from. -/
theorem decode_of_isWritten (h : IsWritten i c) : decode c = .instr i := by
  obtain ⟨hops, tail, ht, rfl⟩ := h
  cases i with
  | add x y | sub x y | mul x y | div x y | mov x y | eq x y | gt x y | lt x y | ne x y =>
    exact decode_lineTwo rfl (hops x (by simp [Instr.operands])) (hops y (by simp [Instr.operands])) ht
  | print x => exact decode_lineOne rfl (hops x (by simp [Instr.operands])) ht
  | halt | help => exact (decode_of_shapeOf_zero rfl).trans (if_pos ht)

/-- What decodes to an instruction, exactly (R53). -/
theorem decode_eq_instr_iff : decode c = .instr i ↔ IsWritten i c :=
  ⟨isWritten_of_decode, decode_of_isWritten⟩

end lines

/-- A well-formed instruction has no whitespace operand (R52). -/
theorem isSpace_of_wf {i : Instr} (h : i.wf = true) : ∀ b ∈ i.operands, isSpace b = false := by
  intro b hb
  have hok : operandOk b = true := List.all_eq_true.1 h b hb
  simp only [operandOk, Bool.and_eq_true, Bool.not_eq_true'] at hok
  exact hok.1

end Sys2Proof.Proofs
end

section
/-! PROOFS of the encoding family: decoding and encoding (30_encoding.md R49, R53 to R60). -/

namespace Sys2Proof.Proofs

open Sys2Proof.Machine

/-- Settles O1: a well-formed instruction, written out, is one of the lines that decode to it. -/
theorem decodeOfEncodeIsIdentity : Obligations.DecodeOfEncodeIsIdentity :=
  fun _ tail hwf ht => decode_of_isWritten ⟨isSpace_of_wf hwf, tail, ht, rfl⟩

/-- Settles O2: each row of the opcode map answers an instruction only on a line in its form. -/
theorem decodedLineIsEncodingPlusWhitespace : Obligations.DecodedLineIsEncodingPlusWhitespace :=
  fun _ _ h => isWritten_of_decode h

/-- The instructions without operands (R49). -/
theorem operands_eq_nil_iff (i : Instr) : i.operands = [] ↔ i = .halt ∨ i = .help := by
  cases i <;> simp [Instr.operands]

/-- Settles O8: `.` and `H` are written as the character alone. -/
theorem zeroOperandFormNeedsOnlyWhitespace : Obligations.ZeroOperandFormNeedsOnlyWhitespace :=
  fun c => ⟨decode_eq_instr_iff.trans (isWritten_halt_iff c), decode_eq_instr_iff.trans (isWritten_help_iff c),
    fun i _ => (operands_eq_nil_iff i).1⟩

/-- Settles O9: the row of `@`, and the two answers of form U. -/
theorem oneOperandFormExactly : Obligations.OneOperandFormExactly := by
  intro rest
  have hop : shapeOf 0x40#8 = some (.one .print) := rfl
  refine ⟨fun x => decode_eq_instr_iff.trans (isWritten_one_iff hop x rest), fun hnone => ?_⟩
  rw [decode_of_shapeOf_one hop] at hnone ⊢
  rcases decodeOne_cases .print rest with ⟨x, tail, -, -, -, hx⟩ | hbad
  · exact absurd ⟨x, hx⟩ hnone
  · exact ⟨_, hbad⟩

/-- The nine rows of two operands (R49, R66). -/
theorem shapeOf_of_mem_two {op : Byte} {mk : Byte → Byte → Instr}
    (h : (op, mk) ∈ [(0x2B#8, Instr.add), (0x2D#8, Instr.sub), (0x2A#8, Instr.mul), (0x2F#8, Instr.div),
      (0x4D#8, Instr.mov), (0x3F#8, Instr.eq), (0x3E#8, Instr.gt), (0x3C#8, Instr.lt), (0x21#8, Instr.ne)]) :
    shapeOf op = some (.two mk) := by
  simp only [List.mem_cons, List.not_mem_nil, or_false, Prod.mk.injEq] at h
  rcases h with ⟨rfl, rfl⟩ | ⟨rfl, rfl⟩ | ⟨rfl, rfl⟩ | ⟨rfl, rfl⟩ | ⟨rfl, rfl⟩ | ⟨rfl, rfl⟩ |
    ⟨rfl, rfl⟩ | ⟨rfl, rfl⟩ | ⟨rfl, rfl⟩ <;> rfl

/-- Settles O10: a row of two operands, and the two answers of form B. -/
theorem twoOperandFormExactly : Obligations.TwoOperandFormExactly := by
  intro op mk rest hmem
  have hop := shapeOf_of_mem_two hmem
  refine ⟨fun x y => decode_eq_instr_iff.trans (isWritten_two_iff hop x y rest), fun hnone => ?_⟩
  rw [decode_of_shapeOf_two hop] at hnone ⊢
  rcases decodeTwo_cases mk rest with ⟨x, y, tail, -, -, -, -, hxy⟩ | hbad
  · exact absurd ⟨x, y, hxy⟩ hnone
  · exact ⟨_, hbad⟩

/-- Settles O6: each of the twelve characters selects its row, and every other byte none. -/
theorem opcodeSetAndArities : Obligations.OpcodeSetAndArities := by
  intro op
  by_cases hop : op ∈ opcodeMap.map Prod.fst
  · rw [opcodeMap_keys] at hop
    simp only [List.mem_cons, List.not_mem_nil, or_false] at hop
    rcases hop with rfl | rfl | rfl | rfl | rfl | rfl | rfl | rfl | rfl | rfl | rfl | rfl <;> rfl
  · have hnone := (shapeOf_eq_none_iff op).2 hop
    simp only [opcodeMap_keys, List.mem_cons, List.not_mem_nil, or_false, not_or] at hop
    simp [hnone, hop]

end Sys2Proof.Proofs
end

section
/-! PROOFS of the encoding family: the lines that a step takes, and the multiplexer (30_encoding.md R50, R54, R55, R63). -/

namespace Sys2Proof.Proofs

open Sys2Proof.Machine

/-- What taking a line leaves (10_state.md R21). -/
theorem takeLine_of_inputs {s : State} {inp : Input} {more : List Input} (h : s.inputs = inp :: more) :
    takeLine s = { s with inputs := more, lineIndex := s.lineIndex + 1 } := by
  simp [takeLine, h]

/-- Settles O7: such a character selects no row, and the step raises the error. -/
theorem unknownOpcodeHaltsMalformed : Obligations.UnknownOpcodeHaltsMalformed := by
  intro op rest s more hop
  rw [← opcodeMap_keys, ← shapeOf_eq_none_iff] at hop
  have hdec : decode (op :: rest) = .malformed .unknownOpcode := decode_of_shapeOf_none hop
  refine ⟨⟨_, hdec⟩, fun hrun hin hduty => ?_⟩
  have hstep := step_eq_next_iff.2 (.malformed _ _ _ hin hrun hduty hdec)
  rw [hstep, raise_eq_failedWith, takeLine_of_inputs hin]
  rfl

/-- Settles O41: the empty line keeps every duty and decodes to IGNORED. -/
theorem emptyLineIsIgnored : Obligations.EmptyLineIsIgnored := by
  intro s more hrun hin
  have hduty : lineRefusal s.cfg.lmax [] = none := by simp [lineRefusal_none]
  have hstep := step_eq_next_iff.2 (.ignored _ _ hin hrun hduty rfl)
  rw [hstep, takeLine_of_inputs hin]
  rfl

/-- Every instruction answers a next state (60_exceptions.md R86, R98). -/
theorem exec_next (i : Instr) (s : State) : ∃ t, exec i s = .next t := by
  cases i with
  | mov x y => rcases execMov_cases x y s with h | ⟨d, -, -, h⟩ | ⟨d, r, -, -, -, -, h⟩ <;> exact ⟨_, h⟩
  | print x => rcases execPrint_cases x s with ⟨r, -, h⟩ | ⟨-, h⟩ <;> exact ⟨_, h⟩
  | _ => exact ⟨_, rfl⟩

/-- A line is refused with the name of a duty that it breaks, and only then (60_exceptions.md R102). -/
theorem runLine_eq_refused_iff (c : Line) (s : State) (r : Refusal) :
    runLine c s = .refused r ↔ lineRefusal s.cfg.lmax c = some r := by
  rcases runLine_cases c s with ⟨r', hduty, h⟩ | ⟨hduty, -, h⟩ | ⟨w, hduty, -, h⟩ | ⟨i, hduty, -, h⟩
  · simp [hduty, h]
  · simp [hduty, h]
  · simp [hduty, h]
  · obtain ⟨t, ht⟩ := exec_next i s
    simp [hduty, h, ht]

/-- A step is refused exactly on a line that a RUNNING block takes and that breaks a duty (log 11). -/
theorem step_eq_refused_iff (s : State) (r : Refusal) :
    step s = .refused r ↔
      s.halted = false ∧ ∃ c more, s.inputs = .line c :: more ∧ lineRefusal s.cfg.lmax c = some r := by
  rcases engineStep_cases s with ⟨hin, h⟩ | ⟨rest, hin, h⟩ | ⟨rest, hin, -, h⟩ | ⟨c, rest, hin, hrun, h⟩ |
    ⟨inp, rest, hin, -, hhalt, h⟩
  · simp [step, h, hin]
  · simp [step, h, hin]
  · simp [step, h, hin]
  · simp [step, h, hin, hrun, runLine_eq_refused_iff]
  · simp [step, h, hhalt]

/-- Settles O45: the refusals of the step, and the three duties. -/
theorem stepRefusesExactlyUndutifulLines : Obligations.StepRefusesExactlyUndutifulLines := by
  refine ⟨fun s => ?step, fun lmax c => ?duties⟩
  case step =>
    simp only [step_eq_refused_iff, Option.ne_none_iff_exists']
    exact ⟨fun ⟨r, hrun, c, more, hin, hr⟩ => ⟨hrun, c, more, hin, r, hr⟩,
      fun ⟨hrun, c, more, hin, r, hr⟩ => ⟨r, hrun, c, more, hin, hr⟩⟩
  case duties =>
    rw [Ne, lineRefusal_none]
    simp only [not_and_or, not_not, Nat.not_le, chLF, chNul]

/-- A digit is a code from 0x30 to 0x39 (R47). -/
theorem isDigit_iff (ch : Byte) : isDigit ch = true ↔ 0x30 ≤ ch.toNat ∧ ch.toNat ≤ 0x39 := by
  simp [isDigit, chZero, chNine]

theorem isDigit_eq_false_iff (ch : Byte) : isDigit ch = false ↔ ¬ (0x30 ≤ ch.toNat ∧ ch.toNat ≤ 0x39) := by
  rw [← isDigit_iff, Bool.not_eq_true]

/-- Settles O14: by the selection that the byte makes (R64). -/
theorem resolveOfEveryByte : Obligations.ResolveOfEveryByte := by
  intro ch s
  rcases resolve_cases ch s with ⟨hd, hres, -⟩ | ⟨r, hd, hreg, hres, -⟩ | ⟨hd, hreg, hres, -⟩
  · rw [hres, if_pos ((isDigit_iff ch).1 hd)]
    rfl
  · rw [hres, if_neg ((isDigit_eq_false_iff ch).1 hd)]
    rcases regOf_cases ch with ⟨rfl, ha⟩ | ⟨rfl, hb⟩ | ⟨-, -, hnone⟩
    · cases ha.symm.trans hreg; rfl
    · cases hb.symm.trans hreg; rfl
    · simp [hnone] at hreg
  · rw [hres, if_neg ((isDigit_eq_false_iff ch).1 hd)]
    rcases regOf_cases ch with ⟨-, ha⟩ | ⟨-, hb⟩ | ⟨hna, hnb, -⟩
    · simp [ha] at hreg
    · simp [hb] at hreg
    · exact ((if_neg hna).trans (if_neg hnb)).symm

end Sys2Proof.Proofs
end

section
/-! PROOFS of the encoding family: the port layout (30_encoding.md R51, 20_memory.md R38). -/

namespace Sys2Proof.Proofs

theorem irOfLine_cons (n : Nat) (ch : Byte) (cs : Line) :
    irOfLine (n + 1) (ch :: cs) = ch.toNat * 256 ^ n + irOfLine n cs := rfl

/-- The IR of a line holds one byte for each position. -/
theorem irOfLine_lt {lmax : Nat} {c : Line} (h : c.length ≤ lmax) : irOfLine lmax c < 256 ^ lmax := by
  induction c generalizing lmax with
  | nil => exact Nat.pow_pos (by omega)
  | cons ch cs ih =>
    obtain _ | n := lmax
    · simp at h
    · have htail : irOfLine n cs < 256 ^ n := ih (by simpa using h)
      have hch : ch.toNat < 256 := ch.isLt
      calc irOfLine (n + 1) (ch :: cs) < ch.toNat * 256 ^ n + 256 ^ n := Nat.add_lt_add_left htail _
        _ = (ch.toNat + 1) * 256 ^ n := by ring
        _ ≤ 256 * 256 ^ n := Nat.mul_le_mul_right _ hch
        _ = 256 ^ (n + 1) := by ring

/-- Position 0 is the most significant byte. -/
theorem irByte_zero_irOfLine_cons {n : Nat} {ch : Byte} {cs : Line} (h : cs.length ≤ n) :
    irByte (n + 1) (irOfLine (n + 1) (ch :: cs)) 0 = ch := by
  have hdiv : (ch.toNat * 256 ^ n + irOfLine n cs) / 256 ^ n = ch.toNat := by
    rw [Nat.mul_comm, Nat.mul_add_div (by positivity), Nat.div_eq_of_lt (irOfLine_lt h), Nat.add_zero]
  simp [irByte, irOfLine_cons, hdiv]

/-- The positions after the first are those of the rest of the line, under one position fewer. -/
theorem irByte_succ_irOfLine_cons {n k : Nat} (ch : Byte) (cs : Line) (hk : k < n) :
    irByte (n + 1) (irOfLine (n + 1) (ch :: cs)) (k + 1) = irByte n (irOfLine n cs) k := by
  have hsplit : ch.toNat * 256 ^ n = 256 ^ (n - 1 - k) * (256 * (ch.toNat * 256 ^ k)) := by
    have hn : n = n - 1 - k + 1 + k := by omega
    calc ch.toNat * 256 ^ n = ch.toNat * 256 ^ (n - 1 - k + 1 + k) := by rw [← hn]
      _ = _ := by ring
  have hexp : n + 1 - 1 - (k + 1) = n - 1 - k := by omega
  apply BitVec.eq_of_toNat_eq
  simp only [irByte, irOfLine_cons, hexp, BitVec.toNat_ofNat]
  rw [hsplit, Nat.mul_add_div (by positivity)]
  exact Nat.mul_add_mod _ _ _

theorem irByte_irOfLine {lmax : Nat} {c : Line} {k : Nat} (hlen : c.length ≤ lmax) (hk : k < lmax) :
    irByte lmax (irOfLine lmax c) k = c.getD k 0x00#8 := by
  induction c generalizing lmax k with
  | nil => simp [irOfLine, irByte]
  | cons ch cs ih =>
    obtain _ | n := lmax
    · omega
    have hcs : cs.length ≤ n := by simpa using hlen
    cases k with
    | zero => exact irByte_zero_irOfLine_cons hcs
    | succ k =>
      have hkn : k < n := by omega
      rw [irByte_succ_irOfLine_cons ch cs hkn, ih hcs hkn, List.getD_cons_succ]

/-- Settles O4: by induction over the line, one position of the IR at a time. -/
theorem irByteIsLineCharacter : Obligations.IrByteIsLineCharacter :=
  fun _ _ _ hlen hk => irByte_irOfLine hlen hk

/-- Settles O3: each position below LEN holds its character. -/
theorem portCarriesEveryLine : Obligations.PortCarriesEveryLine := by
  intro lmax c hlen
  refine ⟨?fits, ?readBack⟩
  case fits =>
    rw [Nat.pow_mul]
    exact irOfLine_lt hlen
  case readBack =>
    refine List.ext_getElem (by simp [lineOfPort]) fun k hk hkc => ?_
    simp only [lineOfPort, List.getElem_map, List.getElem_range]
    rw [irByte_irOfLine hlen (by omega), List.getD_eq_getElem _ _ hkc]

end Sys2Proof.Proofs
end

section
/-! SUPPORT of the arithmetic family (40_arithmetic.md): the datapath's outcomes as next states, and `trunc_N` of the exact results
that `+ - * /` give. -/

namespace Sys2Proof.Proofs

open Sys2Proof.Machine

theorem exec_add (x y : Byte) (s : State) : exec (.add x y) s = .next (arith addResult x y s) := rfl
theorem exec_sub (x y : Byte) (s : State) : exec (.sub x y) s = .next (arith subResult x y s) := rfl
theorem exec_mul (x y : Byte) (s : State) : exec (.mul x y) s = .next (arith mulResult x y s) := rfl
theorem exec_div (x y : Byte) (s : State) : exec (.div x y) s = .next (arith divResult x y s) := rfl

/-- The bank's high half of a natural number is its second `W`-bit digit (10_state.md R23). -/
theorem trunc_natCast_high (w v : Nat) : trunc (2 * w) (v : Int) / 2 ^ w = v / 2 ^ w % 2 ^ w := by
  rw [trunc_natCast, two_mul, pow_add, Nat.mod_mul_right_div_self]

/-- A negative number wraps once (90_conflicts.md C4). -/
theorem trunc_neg {n d : Nat} (hpos : 0 < d) (hle : d ≤ 2 ^ n) : trunc n (-(d : Int)) = 2 ^ n - d := by
  refine (truncIsTheUniqueResidue n _ _).2 ⟨by omega, ?_⟩
  rw [Nat.cast_sub hle]
  simp

/-- The high half of a negative number above `-2^W` is all ones (40_arithmetic.md R72). -/
theorem trunc_neg_high {w d : Nat} (hpos : 0 < d) (hle : d ≤ 2 ^ w) :
    trunc (2 * w) (-(d : Int)) / 2 ^ w = 2 ^ w - 1 := by
  have hsq : (2 : Nat) ^ (2 * w) = 2 ^ w * 2 ^ w := by rw [two_mul, pow_add]
  have hle2 : d ≤ 2 ^ w * 2 ^ w := hle.trans (Nat.le_mul_self _)
  obtain ⟨e, rfl⟩ : ∃ e, d = e + 1 := ⟨d - 1, by omega⟩
  rw [trunc_neg hpos (hsq ▸ hle2), hsq, Nat.mul_sub_div _ _ _ hle2, Nat.div_eq_of_lt hle]

/-- From `W = 4` on, a digit is a W-bit value too, so every operand is (40_arithmetic.md R71). -/
theorem resolve_lt {ch : Byte} {s : State} {a : Nat} (hw : 4 ≤ s.cfg.width) (hfit : s.wordsFit)
    (h : resolve ch s = some a) : a < 2 ^ s.cfg.width := by
  rcases resolve_cases ch s with ⟨hd, hres, -⟩ | ⟨r, -, -, hres, -⟩ | ⟨-, -, hres, -⟩ <;>
    rw [hres] at h <;> cases h
  · have hdigit : digitValue ch < 2 ^ 4 := by
      have hrange := (isDigit_iff ch).1 hd
      simp only [digitValue, chZero, BitVec.toNat_ofNat]
      omega
    exact hdigit.trans_le (Nat.pow_le_pow_right (by omega) hw)
  · exact readReg_lt hfit r

section outcomes
variable {f : Nat → Nat → Option Int} {x y : Byte} {s : State} {a b v : Nat} {r : Int} {i : Instr}

/-- A result: `trunc_W` of it in AX and MEM[1], its next `W` bits in MEM[0] (R70). -/
theorem exec_of_result (hi : exec i s = .next (arith f x y s)) (hx : resolve x s = some a) (hy : resolve y s = some b)
    (hf : f a b = some r) :
    ∃ u, exec i s = .next (arithmeticDone (trunc s.cfg.width r) (trunc (2 * s.cfg.width) r / 2 ^ s.cfg.width)
      (trunc s.cfg.width r) u s) := by
  obtain ⟨u, hu⟩ := noteResolve_noteResolve_eq x y s
  refine ⟨u, ?_⟩
  rw [hi, arith_of_result hx hy hf, hu, ← trunc_low]
  rfl

/-- A result that is a natural number: its two lowest `W`-bit digits (R70). -/
theorem exec_of_natCast_result (hi : exec i s = .next (arith f x y s)) (hx : resolve x s = some a)
    (hy : resolve y s = some b) (hf : f a b = some (v : Int)) :
    ∃ u, exec i s = .next (arithmeticDone (v % 2 ^ s.cfg.width) (v / 2 ^ s.cfg.width % 2 ^ s.cfg.width)
      (v % 2 ^ s.cfg.width) u s) := by
  rw [← trunc_natCast_high, ← trunc_natCast]
  exact exec_of_result hi hx hy hf

/-- No result: INVALID_OPERATION (R70, R74). -/
theorem exec_of_no_result (hi : exec i s = .next (arith f x y s)) (hx : resolve x s = some a)
    (hy : resolve y s = some b) (hf : f a b = none) : ∃ u, exec i s = .next (failedWith .errInvalid u s) := by
  obtain ⟨u, hu⟩ := noteResolve_noteResolve_eq x y s
  exact ⟨u, by rw [hi, arith_of_no_result hx hy hf, hu, raise_recorded]; rfl⟩

/-- An operand that does not resolve, the first or the second: UNRESOLVABLE_OPERAND (R70). -/
theorem exec_of_unresolved (hi : exec i s = .next (arith f x y s)) (h : resolve x s = none ∨ resolve y s = none) :
    ∃ u, exec i s = .next (failedWith .errUnresolvable u s) := by
  cases hx : resolve x s with
  | none => exact ⟨s.uninitRead, by rw [hi, arith_of_unresolved_left hx]; rfl⟩
  | some a =>
    have hy : resolve y s = none := by simpa [hx] using h
    obtain ⟨u, hu⟩ := noteResolve_eq x s
    exact ⟨u, by rw [hi, arith_of_unresolved_right hx hy, hu, raise_recorded]; rfl⟩

/-- The three outcomes are all there are (R70). -/
theorem exec_arith_outcomes (hi : exec i s = .next (arith f x y s)) :
    (∃ ax m0 u, exec i s = .next (arithmeticDone ax m0 ax u s)) ∨
    ∃ st u, (st = .errUnresolvable ∨ st = .errInvalid) ∧ exec i s = .next (failedWith st u s) := by
  rcases arith_cases f x y s with ⟨hx, -⟩ | ⟨a, -, hy, -⟩ | ⟨a, b, hx, hy, hf, -⟩ | ⟨a, b, r, hx, hy, hf, -⟩
  · exact .inr ⟨_, (exec_of_unresolved hi (.inl hx)).imp fun _ h => ⟨.inl rfl, h⟩⟩
  · exact .inr ⟨_, (exec_of_unresolved hi (.inr hy)).imp fun _ h => ⟨.inl rfl, h⟩⟩
  · exact .inr ⟨_, (exec_of_no_result hi hx hy hf).imp fun _ h => ⟨.inr rfl, h⟩⟩
  · exact .inl ⟨_, _, exec_of_result hi hx hy hf⟩

end outcomes

/-- A two-operand line whose operand bytes can stand in a line decodes (30_encoding.md R58). -/
theorem decode_two_of_operandOk {op : Byte} {mk : Byte → Byte → Instr} (hop : shapeOf op = some (.two mk)) {x y : Byte}
    (hx : operandOk x = true) (hy : operandOk y = true) : decode [op, 0x20#8, x, 0x20#8, y] = .instr (mk x y) := by
  simp only [operandOk, Bool.and_eq_true, Bool.not_eq_true'] at hx hy
  exact decode_lineTwo (tail := []) hop hx.1 hy.1 rfl

end Sys2Proof.Proofs
end

section
/-! PROOFS of the arithmetic family (40_arithmetic.md R70 to R74). -/

namespace Sys2Proof.Proofs

open Sys2Proof.Machine

/-- The carry out of a sum of two W-bit values is one bit (R71). -/
theorem add_div_two_pow_le_one {a b w : Nat} (ha : a < 2 ^ w) (hb : b < 2 ^ w) : (a + b) / 2 ^ w ≤ 1 :=
  Nat.le_of_lt_succ (Nat.div_lt_of_lt_mul (by omega))

/-- Settles O16: the sum is a natural number, and two W-bit values carry at most 1. -/
theorem addMeaning : Obligations.AddMeaning := by
  intro x y s
  refine ⟨fun a b hx hy => ⟨?result, fun hw hfit => ?carry⟩, exec_of_unresolved (exec_add x y s),
    decode_two_of_operandOk rfl⟩
  case result =>
    exact exec_of_natCast_result (exec_add x y s) hx hy (by simp [addResult])
  case carry =>
    have ha := resolve_lt hw hfit hx
    have hb := resolve_lt hw hfit hy
    have hcarry := (Nat.mod_le _ (2 ^ s.cfg.width)).trans (add_div_two_pow_le_one ha hb)
    exact ⟨by rw [pow_succ]; omega, by omega⟩

/-- Settles O17: AX is `trunc_W` of the difference, and the bank's two halves make up `trunc_2W` of it. -/
theorem subMeaning : Obligations.SubMeaning := by
  intro x y s
  refine ⟨fun a b hx hy => ?_, exec_of_unresolved (exec_sub x y s)⟩
  obtain ⟨u, hu⟩ := exec_of_result (exec_sub x y s) hx hy rfl
  obtain ⟨hlt, hcong⟩ := (truncIsTheUniqueResidue s.cfg.width _ ((a : Int) - b)).1 rfl
  obtain ⟨-, hcong2⟩ := (truncIsTheUniqueResidue (2 * s.cfg.width) _ ((a : Int) - b)).1 rfl
  refine ⟨_, _, u, hu, hlt, trunc_high_lt _ _, hcong, ?_⟩
  rwa [← trunc_low s.cfg.width, trunc_halves]

/-- Settles O18: without a borrow the difference is a natural number, with one it is the negative of `b - a`. -/
theorem subBorrowPattern : Obligations.SubBorrowPattern := by
  intro x y s a b hw hfit hx hy
  have ha := resolve_lt hw hfit hx
  have hb := resolve_lt hw hfit hy
  refine ⟨fun hle => ?noBorrow, fun hlt => ?borrow⟩
  case noBorrow =>
    have hsub : subResult a b = some ((a - b : Nat) : Int) := by rw [Nat.cast_sub hle]; rfl
    have hfits : a - b < 2 ^ s.cfg.width := by omega
    simpa [Nat.mod_eq_of_lt hfits, Nat.div_eq_of_lt hfits] using
      exec_of_natCast_result (exec_sub x y s) hx hy hsub
  case borrow =>
    have hsub : subResult a b = some (-((b - a : Nat) : Int)) := by
      rw [Nat.cast_sub hlt.le, neg_sub]; rfl
    have hpos : 0 < b - a := by omega
    have hle : b - a ≤ 2 ^ s.cfg.width := by omega
    simpa only [trunc_neg hpos hle, trunc_neg_high hpos hle] using
      exec_of_result (exec_sub x y s) hx hy hsub

/-- Settles O19: the product of two W-bit values fits 2W bits, so its high digit is not truncated. -/
theorem mulMeaning : Obligations.MulMeaning := by
  intro x y s
  refine ⟨fun a b hx hy => ⟨?result, fun hw hfit => ?fullProduct⟩, exec_of_unresolved (exec_mul x y s),
    decode_two_of_operandOk rfl⟩
  case result =>
    exact exec_of_natCast_result (exec_mul x y s) hx hy (by simp [mulResult])
  case fullProduct =>
    have hprod : a * b < 2 ^ s.cfg.width * 2 ^ s.cfg.width :=
      Nat.mul_lt_mul'' (resolve_lt hw hfit hx) (resolve_lt hw hfit hy)
    exact ⟨by rwa [two_mul, pow_add], Nat.mod_eq_of_lt (Nat.div_lt_of_lt_mul hprod)⟩

/-- Settles O20: the quotient is at most the dividend, and the divisor 0 is the one case without a result. -/
theorem divMeaning : Obligations.DivMeaning := by
  intro x y s
  refine ⟨fun a b hx hy hb => ⟨?quotient, fun hw hfit => ?fits⟩, fun a hx hy => ?byZero,
    exec_of_unresolved (exec_div x y s)⟩
  case quotient =>
    exact exec_of_natCast_result (exec_div x y s) hx hy (if_neg hb)
  case fits =>
    have hquot : a / b < 2 ^ s.cfg.width := (Nat.div_le_self a b).trans_lt (resolve_lt hw hfit hx)
    exact ⟨Nat.mod_eq_of_lt hquot, Nat.div_eq_of_lt hquot⟩
  case byZero =>
    exact exec_of_no_result (exec_div x y s) hx hy (if_pos rfl)

/-- Each of `+ - * /` is the common datapath (R70). -/
theorem exec_eq_arith {x y : Byte} {i : Instr} (hi : i = .add x y ∨ i = .sub x y ∨ i = .mul x y ∨ i = .div x y)
    (s : State) : ∃ f, exec i s = .next (arith f x y s) := by
  rcases hi with rfl | rfl | rfl | rfl
  · exact ⟨_, exec_add x y s⟩
  · exact ⟨_, exec_sub x y s⟩
  · exact ⟨_, exec_mul x y s⟩
  · exact ⟨_, exec_div x y s⟩

/-- Settles O21: the datapath ends in `arithmeticDone` or in `failedWith` one of its two errors. -/
theorem arithmeticFrame : Obligations.ArithmeticFrame := by
  intro x y s t i hi hexec
  obtain ⟨f, harith⟩ := exec_eq_arith hi s
  rcases exec_arith_outcomes harith with ⟨ax, m0, u, hdone⟩ | ⟨st, u, hst, hfail⟩
  · cases hexec.symm.trans hdone
    simp
  · cases hexec.symm.trans hfail
    simp [hst]

end Sys2Proof.Proofs
end

section
/-! SUPPORT of the move family (41_move.md R76): the register names, the write of `M`, and its outcomes as next states. -/

namespace Sys2Proof.Proofs

open Sys2Proof.Machine

theorem exec_mov (x y : Byte) (s : State) : exec (.mov x y) s = execMov x y s := rfl

/-- The character that names a register (10_state.md R18). -/
def regChar : Reg → Byte
  | .a => 0x41#8
  | .b => 0x42#8

/-- Exactly one character names each register. -/
theorem regOf_eq_some_iff (ch : Byte) (r : Reg) : regOf ch = some r ↔ ch = regChar r := by
  constructor
  · intro h
    rcases regOf_cases ch with ⟨rfl, ha⟩ | ⟨rfl, hb⟩ | ⟨-, -, hnone⟩
    · cases ha.symm.trans h; rfl
    · cases hb.symm.trans h; rfl
    · simp [hnone] at h
  · rintro rfl
    cases r <;> decide

/-- No register name is a digit. -/
theorem isDigit_regChar (r : Reg) : isDigit (regChar r) = false := by
  cases r <;> decide

theorem regOf_eq_none_iff (ch : Byte) : regOf ch = none ↔ ch ≠ 0x41#8 ∧ ch ≠ 0x42#8 := by
  rcases regOf_cases ch with ⟨rfl, ha⟩ | ⟨rfl, hb⟩ | ⟨hna, hnb, hnone⟩
  · exact iff_of_false (by simp [ha]) fun ⟨hna, _⟩ => hna rfl
  · exact iff_of_false (by simp [hb]) fun ⟨_, hnb⟩ => hnb rfl
  · exact iff_of_true hnone ⟨hna, hnb⟩

/-- An unresolvable byte is one for which the multiplexer selects an error (30_encoding.md R64). -/
theorem unresolvableByte_iff (ch : Byte) : unresolvableByte ch ↔ isDigit ch = false ∧ regOf ch = none := by
  rw [isDigit_eq_false_iff, regOf_eq_none_iff]

theorem moveTo_a (v : Nat) (s : State) :
    moveTo .a v s = { s with ax := v % 2 ^ s.cfg.width, wAX := true, status := .ok, event := .none } := by
  rw [← trunc_natCast]
  rfl

theorem moveTo_b (v : Nat) (s : State) :
    moveTo .b v s = { s with bx := v % 2 ^ s.cfg.width, wBX := true, status := .ok, event := .none } := by
  rw [← trunc_natCast]
  rfl

/-- `M` from a digit. -/
theorem exec_mov_digit {x : Byte} (hx : isDigit x = true) (d : Reg) (s : State) :
    exec (.mov x (regChar d)) s = .next (moveTo d (digitValue x) s) := by
  have hd : regOf (regChar d) = some d := (regOf_eq_some_iff _ d).2 rfl
  simp [exec_mov, execMov, moveSource, hd, hx]

/-- `M` from the other register. -/
theorem exec_mov_register {r d : Reg} (hne : r ≠ d) (s : State) :
    exec (.mov (regChar r) (regChar d)) s = .next (moveTo d (readReg r s) (noteRead r s)) := by
  have hd : regOf (regChar d) = some d := (regOf_eq_some_iff _ d).2 rfl
  have hr : regOf (regChar r) = some r := (regOf_eq_some_iff _ r).2 rfl
  simp [exec_mov, execMov, moveSource, hd, hr, hne, isDigit_regChar, bitsToDecimal]

/-- The two outcomes of `M`: INVALID_OPERATION, or a write to the register that the target names. -/
theorem exec_mov_outcomes (x y : Byte) (s : State) :
    exec (.mov x y) s = .next (failedWith .errInvalid s.uninitRead s) ∨
    ∃ d v u, y = regChar d ∧ exec (.mov x y) s = .next (moveTo d v { s with uninitRead := u }) := by
  rcases execMov_cases x y s with h | ⟨d, hy, -, h⟩ | ⟨d, r, hy, -, -, -, h⟩
  · exact .inl h
  · exact .inr ⟨d, _, s.uninitRead, (regOf_eq_some_iff y d).1 hy, h⟩
  · exact .inr ⟨d, _, _, (regOf_eq_some_iff y d).1 hy, h⟩

end Sys2Proof.Proofs
end

section
/-! PROOFS of the move family (41_move.md R76). -/

namespace Sys2Proof.Proofs

open Sys2Proof.Machine

/-- Settles O22: the digit's value, written to either register. -/
theorem movLoadsDigit : Obligations.MovLoadsDigit := by
  intro x s hx
  have hdigit : isDigit x = true := (isDigit_iff x).2 hx
  constructor
  · exact (exec_mov_digit hdigit .a s).trans (congrArg _ (moveTo_a _ s))
  · exact (exec_mov_digit hdigit .b s).trans (congrArg _ (moveTo_b _ s))

/-- Settles O23: the write happens in the state that the source's read leaves. -/
theorem movCopiesOtherRegister : Obligations.MovCopiesOtherRegister := by
  intro s
  refine ⟨⟨(noteRead .b s).uninitRead, ?fromB⟩, ⟨(noteRead .a s).uninitRead, ?fromA⟩, fun hfit => ?copied⟩
  case fromB =>
    exact (exec_mov_register (r := .b) (d := .a) (by decide) s).trans (congrArg _ (moveTo_a _ _))
  case fromA =>
    exact (exec_mov_register (r := .a) (d := .b) (by decide) s).trans (congrArg _ (moveTo_b _ _))
  case copied =>
    exact ⟨Nat.mod_eq_of_lt (readReg_lt hfit .b), Nat.mod_eq_of_lt (readReg_lt hfit .a)⟩

/-- Settles O24: a successful `M` names its target and takes a digit or the other register, so each rejected form contradicts it. -/
theorem movRejectsOtherForms : Obligations.MovRejectsOtherForms := by
  intro x y s hform
  rw [← regOf_eq_none_iff, unresolvableByte_iff] at hform
  rcases execMov_cases x y s with h | ⟨d, hy, hx, -⟩ | ⟨d, r, hy, -, hx, hne, -⟩
  · exact h
  · rcases hform with hbad | ⟨hbad, -⟩ | rfl
    · simp [hy] at hbad
    · simp [hx] at hbad
    · rw [(regOf_eq_some_iff x d).1 hy, isDigit_regChar] at hx
      cases hx
  · rcases hform with hbad | ⟨-, hbad⟩ | rfl
    · simp [hy] at hbad
    · simp [hx] at hbad
    · exact absurd (Option.some.inj (hx.symm.trans hy)) hne

/-- Settles O25: `M` ends in `failedWith`, or in a write to the one register that its target names. -/
theorem movFrame : Obligations.MovFrame := by
  intro x y s t hexec
  rcases exec_mov_outcomes x y s with hfail | ⟨d, v, u, rfl, hdone⟩
  · cases hexec.symm.trans hfail
    simp
  · cases hexec.symm.trans hdone
    cases d with
    | a => simp [moveTo_a, regChar]
    | b => simp [moveTo_b, regChar]

end Sys2Proof.Proofs
end

section
/-! SUPPORT of the comparison family (42_compare.md R77): what the comparator emits, and the key it compares. -/

namespace Sys2Proof.Proofs

open Sys2Proof.Machine

theorem exec_eq (x y : Byte) (s : State) : exec (.eq x y) s = .next (compareRaw relEq x y s) := rfl
theorem exec_gt (x y : Byte) (s : State) : exec (.gt x y) s = .next (compareRaw relGt x y s) := rfl
theorem exec_lt (x y : Byte) (s : State) : exec (.lt x y) s = .next (compareRaw relLt x y s) := rfl
theorem exec_ne (x y : Byte) (s : State) : exec (.ne x y) s = .next (compareRaw relNe x y s) := rfl

/-- The comparator writes nothing but its outputs, and CHAR_SIGNED is all that it reads of the state (R77). -/
theorem compareRaw_eq (rel : Int → Int → Bool) (x y : Byte) (s : State) :
    compareRaw rel x y s =
      { s with status := .ok, event := .bool (rel (key s.cfg.charSigned x) (key s.cfg.charSigned y)) } := rfl

/-- Each comparison is the common datapath with one relation, the same in every state (R77). -/
theorem exists_rel_of_compare {x y : Byte} {i : Instr} (hi : i = .eq x y ∨ i = .gt x y ∨ i = .lt x y ∨ i = .ne x y) :
    ∃ rel, ∀ s, exec i s = .next (compareRaw rel x y s) := by
  rcases hi with rfl | rfl | rfl | rfl
  · exact ⟨relEq, exec_eq x y⟩
  · exact ⟨relGt, exec_gt x y⟩
  · exact ⟨relLt, exec_lt x y⟩
  · exact ⟨relNe, exec_ne x y⟩

/-- Under either reading, different characters have different keys (R78). -/
theorem key_inj (signed : Bool) (x y : Byte) : key signed x = key signed y ↔ x = y := by
  cases signed with
  | false => exact Int.natCast_inj.trans BitVec.toNat_inj
  | true => exact BitVec.toInt_inj

/-- A code below 0x80 has one key, under either reading (00_scope.md R9). -/
theorem key_of_lt_0x80 {ch : Byte} (h : ch.toNat < 0x80) (signed : Bool) : key signed ch = ch.toNat := by
  cases signed with
  | false => rfl
  | true => exact BitVec.toInt_eq_toNat_of_lt (by omega)

theorem relEq_key (signed : Bool) (x y : Byte) : relEq (key signed x) (key signed y) = decide (x = y) :=
  decide_eq_decide.2 (key_inj signed x y)

/-- The order of the keys is the order of the codes as they are read (00_scope.md R9). -/
theorem relLt_key (signed : Bool) (x y : Byte) : relLt (key signed x) (key signed y) =
    if signed then decide (x.toInt < y.toInt) else decide (x.toNat < y.toNat) := by
  cases signed with
  | false => exact decide_eq_decide.2 Int.ofNat_lt
  | true => rfl

theorem relGt_eq_relLt_swap (p q : Int) : relGt p q = relLt q p := rfl

theorem relNe_eq_not_relEq (p q : Int) : relNe p q = !relEq p q := rfl

end Sys2Proof.Proofs
end

section
/-! PROOFS of the comparison family (42_compare.md R77 to R81). -/

namespace Sys2Proof.Proofs

open Sys2Proof.Machine

/-- Settles O26: equal keys are equal characters, under either reading. -/
theorem eqComparesRawCharacters : Obligations.EqComparesRawCharacters := by
  intro x y s
  refine ⟨?emits, decode_two_of_operandOk rfl⟩
  case emits => rw [exec_eq, compareRaw_eq, relEq_key]

/-- Settles O27: `>` is the order of the keys, from y to x. -/
theorem gtComparesRawCharacters : Obligations.GtComparesRawCharacters := by
  intro x y s
  refine ⟨?emits, decode_two_of_operandOk rfl⟩
  case emits => rw [exec_gt, compareRaw_eq, relGt_eq_relLt_swap, relLt_key]

/-- Settles O28: `<` is the order of the keys, and `>` is `<` with its operands exchanged. -/
theorem ltComparesRawCharacters : Obligations.LtComparesRawCharacters := by
  intro x y s
  refine ⟨?emits, ?swapped, decode_two_of_operandOk rfl⟩
  case emits => rw [exec_lt, compareRaw_eq, relLt_key]
  case swapped => rw [exec_lt, exec_gt, compareRaw_eq, compareRaw_eq, relGt_eq_relLt_swap]

/-- Settles O29: `!` emits the negation of what `?` emits, and one instruction emits one event. -/
theorem neComparesRawCharacters : Obligations.NeComparesRawCharacters := by
  intro x y s
  have emits : exec (.ne x y) s = .next { s with status := .ok, event := .bool (!decide (x = y)) } := by
    rw [exec_ne, compareRaw_eq, relNe_eq_not_relEq, relEq_key]
  refine ⟨emits, fun v hv => ?negates, decode_two_of_operandOk rfl⟩
  case negates =>
    have heq := (eqComparesRawCharacters x y s).1
    obtain rfl : decide (x = y) = v :=
      Event.bool.inj (congrArg State.event (Host.Outcome.next.inj (heq.symm.trans hv)))
    exact emits

/-- Settles O30: the comparator sees a state only through the two keys, and below 0x80 the reading does not change them. -/
theorem charSignedIrrelevantBelow80 : Obligations.CharSignedIrrelevantBelow80 := by
  intro x y s i hx hy hi
  obtain ⟨rel, hrel⟩ := exists_rel_of_compare hi
  refine ⟨rel x.toNat y.toNat, ?_, ?_⟩ <;>
    rw [hrel, compareRaw_eq, key_of_lt_0x80 hx, key_of_lt_0x80 hy]

end Sys2Proof.Proofs
end

section
/-! PROOFS of the print family (43_print.md R82). -/

namespace Sys2Proof.Proofs

open Sys2Proof.Machine

theorem exec_print (x : Byte) (s : State) : exec (.print x) s = execPrint x s := rfl

/-- `@` of a register's name emits the register's value; the read may be recorded, and nothing else changes. -/
theorem exec_print_register (r : Reg) (s : State) : exec (.print (regChar r)) s =
    .next { s with status := .ok, event := .dec (readReg r s), uninitRead := (noteRead r s).uninitRead } := by
  have hr : regOf (regChar r) = some r := (regOf_eq_some_iff _ r).2 rfl
  simp [exec_print, execPrint, hr, output, noteRead]

/-- `@` of any other byte, a digit too, emits the byte itself. -/
theorem exec_print_literal {x : Byte} (hx : regOf x = none) (s : State) :
    exec (.print x) s = .next { s with status := .ok, event := .char x } := by
  simp [exec_print, execPrint, hx, output]

/-- Settles O31: each byte names AX, names BX, or stands for itself. -/
theorem printMeaning : Obligations.PrintMeaning := by
  intro x s
  rcases regOf_cases x with ⟨rfl, -⟩ | ⟨rfl, -⟩ | ⟨-, -, hnone⟩
  · exact ⟨_, exec_print_register .a s⟩
  · exact ⟨_, exec_print_register .b s⟩
  · obtain ⟨hA, hB⟩ := (regOf_eq_none_iff x).1 hnone
    rw [if_neg hA, if_neg hB]
    exact ⟨s.uninitRead, exec_print_literal hnone s⟩

end Sys2Proof.Proofs
end

section
/-! SUPPORT of the system family (44_system.md): the meanings of `.` and `H`, their lines, and the steps on a malformed line and of a
HALTED block, each next state written out. -/

namespace Sys2Proof.Proofs

open Sys2Proof.Machine

theorem exec_halt (s : State) : exec .halt s = .next { s with halted := true, status := .halt, event := .none } := rfl
theorem exec_help (s : State) : exec .help s = .next { s with status := .ok, event := .help } := rfl

/-- The rows of the two zero-operand opcodes (30_encoding.md R66). -/
theorem shapeOf_halt : shapeOf 0x2E#8 = some (.zero .halt) := rfl
theorem shapeOf_help : shapeOf 0x48#8 = some (.zero .help) := rfl

section formZ
variable {op : Byte} {i : Instr} {tail : Line}

/-- Form Z met (30_encoding.md R56). -/
theorem decode_zero_of_allSpace (hop : shapeOf op = some (.zero i)) (ht : allSpace tail = true) :
    decode (op :: tail) = .instr i :=
  (decode_of_shapeOf_zero hop).trans (if_pos ht)

/-- Form Z not met (R59). -/
theorem decode_zero_of_not_allSpace (hop : shapeOf op = some (.zero i)) (ht : allSpace tail = false) :
    decode (op :: tail) = .malformed .zeroForm :=
  (decode_of_shapeOf_zero hop).trans (if_neg (Bool.eq_false_iff.1 ht))

end formZ

section steps
variable {s : State} {more : List Input}

/-- A RUNNING block that takes a malformed line keeping the host's duties halts with ERR_MALFORMED (60_exceptions.md R88, R89). -/
theorem step_malformed {c : Line} {w : Malformed} (hrun : s.halted = false) (hin : s.inputs = .line c :: more)
    (hduty : lineRefusal s.cfg.lmax c = none) (hdec : decode c = .malformed w) :
    step s = .next (failedWith .errMalformed s.uninitRead { s with inputs := more, lineIndex := s.lineIndex + 1 }) := by
  rw [step_eq_next_iff.2 (.malformed _ _ _ hin hrun hduty hdec), raise_eq_failedWith, takeLine_of_inputs hin]
  rfl

/-- A HALTED block drops every input but Reset and answers IDLE (R97). -/
theorem step_halted {inp : Input} (hhalt : s.halted = true) (hin : s.inputs = inp :: more) (hne : inp ≠ .reset) :
    step s = .next { s with inputs := more, status := .idle, event := .none } := by
  rw [step_eq_next_iff.2 (.idled _ _ hin hne hhalt)]
  simp [idleInput, output, dropInput, hin]

end steps

end Sys2Proof.Proofs
end

section
/-! PROOFS of the system family (44_system.md R83, R84). -/

namespace Sys2Proof.Proofs

open Sys2Proof.Machine

/-- Settles O32: `.` leaves the block HALTED, where every line answers IDLE, and a `.` line out of form Z is a malformed line. -/
theorem haltMeaning : Obligations.HaltMeaning := by
  refine ⟨exec_halt, fun tail ht => decode_zero_of_allSpace shapeOf_halt ht,
    fun s tail more ht hrun hin hduty => ?malformedLine, fun s t c more hexec hin _ => ?lineAfterHalt⟩
  case malformedLine =>
    exact step_malformed hrun hin hduty (decode_zero_of_not_allSpace shapeOf_halt ht)
  case lineAfterHalt =>
    have hhalt : t.halted = true := by cases hexec; rfl
    exact step_halted hhalt hin (by simp)

/-- Settles O33: `H` only emits its event, and its lines are those of form Z. -/
theorem helpMeaning : Obligations.HelpMeaning :=
  ⟨exec_help, fun _ ht => decode_zero_of_allSpace shapeOf_help ht,
    fun _ ht => ⟨_, decode_zero_of_not_allSpace shapeOf_help ht⟩⟩

end Sys2Proof.Proofs
end

section
/-! SUPPORT of the exceptions family (60_exceptions.md): what an error status says of the instruction that left it, and where an
instruction records UNINIT_READ. -/

namespace Sys2Proof.Proofs

open Sys2Proof.Machine

/-- Whether an operand byte resolves does not depend on the state (30_encoding.md R63). -/
theorem resolve_eq_none_iff (ch : Byte) (s : State) : resolve ch s = none ↔ unresolvableByte ch := by
  rw [unresolvableByte_iff]
  rcases resolve_cases ch s with ⟨hd, hres, -⟩ | ⟨r, -, hreg, hres, -⟩ | ⟨hd, hreg, hres, -⟩
  · simp [hres, hd]
  · simp [hres, hreg]
  · simp [hres, hd, hreg]

section raisers
variable {f : Nat → Nat → Option Int} {x y : Byte} {i : Instr} {s t : State}

/-- Only `+ - * /` and `M` end in an error, and the state is then the one before but for the error's own effect (R87, R88). -/
theorem exec_error (h : exec i s = .next t) (herr : t.status.isError = true) :
    (IsArith i ∨ IsMove i) ∧ t = failedWith t.status t.uninitRead s := by
  cases exec_effect h with
  | failed k u hi => exact ⟨hi, rfl⟩
  | moved d => cases d <;> cases herr
  | computed | printed | shown | halted => cases herr

/-- The datapath answers UNRESOLVABLE_OPERAND exactly on an operand that does not resolve (R90). -/
theorem arith_status_eq_errUnresolvable_iff :
    (arith f x y s).status = .errUnresolvable ↔ resolve x s = none ∨ resolve y s = none := by
  rcases arith_cases f x y s with ⟨hx, h⟩ | ⟨a, hx, hy, h⟩ | ⟨a, b, hx, hy, -, h⟩ | ⟨a, b, r, hx, hy, -, h⟩
  · simp [h, hx, errorStatus]
  · simp [h, hy, errorStatus]
  · simp [h, hx, hy, errorStatus]
  · simp [h, hx, hy]

/-- The datapath answers INVALID_OPERATION exactly where both operands resolve and have no result (R91, R93). -/
theorem arith_status_eq_errInvalid_iff :
    (arith f x y s).status = .errInvalid ↔ ∃ a b, resolve x s = some a ∧ resolve y s = some b ∧ f a b = none := by
  rcases arith_cases f x y s with ⟨hx, h⟩ | ⟨a, hx, hy, h⟩ | ⟨a, b, hx, hy, hf, h⟩ | ⟨a, b, r, hx, hy, hf, h⟩
  · simp [h, hx, errorStatus]
  · simp [h, hx, hy, errorStatus]
  · simp [h, hx, hy, hf, errorStatus]
  · simp [h, hx, hy, hf]

/-- Where every pair of numbers has a result, the datapath never answers INVALID_OPERATION (R71 to R73). -/
theorem arith_status_ne_errInvalid (hf : ∀ a b, f a b ≠ none) : (arith f x y s).status ≠ .errInvalid := by
  rw [Ne, arith_status_eq_errInvalid_iff]
  exact fun ⟨a, b, _, _, hnone⟩ => hf a b hnone

/-- The divisor 0 is the one case in which `/` has no result (40_arithmetic.md R74). -/
theorem divResult_eq_none_iff (a b : Nat) : divResult a b = none ↔ b = 0 := by
  simp [divResult]

/-- `/` answers INVALID_OPERATION exactly on a divisor 0, its first operand resolving. -/
theorem div_status_eq_errInvalid_iff :
    (arith divResult x y s).status = .errInvalid ↔ ¬ unresolvableByte x ∧ resolve y s = some 0 := by
  rw [arith_status_eq_errInvalid_iff, ← resolve_eq_none_iff x s, ← ne_eq, Option.ne_none_iff_exists']
  constructor
  · rintro ⟨a, b, hx, hy, hf⟩
    obtain rfl := (divResult_eq_none_iff a b).1 hf
    exact ⟨⟨a, hx⟩, hy⟩
  · rintro ⟨⟨a, hx⟩, hy⟩
    exact ⟨a, 0, hx, hy, (divResult_eq_none_iff a 0).2 rfl⟩

/-- Of `+ - * /` only `/` answers INVALID_OPERATION (R91). -/
theorem eq_div_of_errInvalid (hi : IsArith i) (h : exec i s = .next t) (hst : t.status = .errInvalid) :
    ∃ x y, i = .div x y ∧ ¬ unresolvableByte x ∧ resolve y s = some 0 := by
  obtain ⟨x, y, rfl | rfl | rfl | rfl⟩ := hi <;> cases h
  · exact absurd hst (arith_status_ne_errInvalid fun _ _ => Option.some_ne_none _)
  · exact absurd hst (arith_status_ne_errInvalid fun _ _ => Option.some_ne_none _)
  · exact absurd hst (arith_status_ne_errInvalid fun _ _ => Option.some_ne_none _)
  · exact ⟨x, y, rfl, div_status_eq_errInvalid_iff.1 hst⟩

/-- The status of `M`: OK, or INVALID_OPERATION (R91). -/
theorem mov_status_cases (h : exec (.mov x y) s = .next t) : t.status = .errInvalid ∨ t.status = .ok := by
  rcases exec_mov_outcomes x y s with hfail | ⟨d, v, u, -, hdone⟩
  · cases h.symm.trans hfail
    exact .inl rfl
  · cases h.symm.trans hdone
    exact .inr rfl

/-- What `M` accepts: a register as target, and a digit or the other register as source (41_move.md R76). -/
theorem mov_accepted_of_not_rejected
    (h : ¬ ((y ≠ 0x41#8 ∧ y ≠ 0x42#8) ∨ unresolvableByte x ∨ x = y)) :
    ∃ d, y = regChar d ∧ (isDigit x = true ∨ ∃ r, r ≠ d ∧ x = regChar r) := by
  rw [← regOf_eq_none_iff, unresolvableByte_iff, not_or, not_or] at h
  obtain ⟨htarget, hsource, hne⟩ := h
  obtain ⟨d, hd⟩ := Option.ne_none_iff_exists'.1 htarget
  obtain rfl := (regOf_eq_some_iff y d).1 hd
  refine ⟨d, rfl, ?_⟩
  cases hx : regOf x with
  | none => exact .inl (by simpa [hx] using hsource)
  | some r =>
    obtain rfl := (regOf_eq_some_iff x r).1 hx
    exact .inr ⟨r, fun hrd => hne (congrArg regChar hrd), rfl⟩

/-- `M` answers INVALID_OPERATION exactly outside the forms it accepts (R91). -/
theorem mov_status_eq_errInvalid_iff (h : exec (.mov x y) s = .next t) :
    t.status = .errInvalid ↔ (y ≠ 0x41#8 ∧ y ≠ 0x42#8) ∨ unresolvableByte x ∨ x = y := by
  constructor
  · intro hst
    by_contra hform
    obtain ⟨d, rfl, hdigit | ⟨r, hne, rfl⟩⟩ := mov_accepted_of_not_rejected hform
    · cases h.symm.trans (exec_mov_digit hdigit d s)
      cases hst
    · cases h.symm.trans (exec_mov_register hne s)
      cases hst
  · intro hform
    cases h.symm.trans (movRejectsOtherForms x y s hform)
    rfl

/-- No instruction reports a malformed line: that error is the decoder's (R89). -/
theorem exec_status_ne_errMalformed (h : exec i s = .next t) : t.status ≠ .errMalformed := by
  intro hst
  obtain ⟨⟨x, y, hi⟩ | ⟨x, y, rfl⟩, -⟩ := exec_error h (by rw [hst]; rfl)
  · obtain ⟨f, harith⟩ := exec_eq_arith hi s
    rcases exec_arith_outcomes harith with ⟨ax, m0, u, hdone⟩ | ⟨st, u, hkind, hfail⟩
    · cases h.symm.trans hdone
      cases hst
    · cases h.symm.trans hfail
      obtain rfl : st = .errMalformed := hst
      simp at hkind
  · simpa [hst] using mov_status_cases h

end raisers

/-! ### The record of UNINIT_READ -/

section reads
variable {f : Nat → Nat → Option Int} {x y ch : Byte} {s t : State}

/-- A digit names no register. -/
theorem regOf_of_isDigit (h : isDigit ch = true) : regOf ch = none := by
  cases hr : regOf ch with
  | none => rfl
  | some r => simp [(regOf_eq_some_iff ch r).1 hr, isDigit_regChar] at h

theorem readsUnwritten_of_regOf_none (h : regOf ch = none) (s : State) : readsUnwritten ch s = false := by
  obtain ⟨hA, hB⟩ := (regOf_eq_none_iff ch).1 h
  simp [readsUnwritten, hA, hB]

theorem readsUnwritten_regChar (r : Reg) (s : State) : readsUnwritten (regChar r) s = !regWritten r s := by
  cases r <;> simp [readsUnwritten, regChar, regWritten]

theorem readsUnwritten_noteResolve (x y : Byte) (s : State) :
    readsUnwritten y (noteResolve x s) = readsUnwritten y s := by
  simp [readsUnwritten]

/-- Resolving an operand records UNINIT_READ exactly where it reads an unwritten register (R101). -/
theorem noteResolve_uninitRead (ch : Byte) (s : State) :
    (noteResolve ch s).uninitRead = (s.uninitRead || readsUnwritten ch s) := by
  rcases resolve_cases ch s with ⟨hd, -, h⟩ | ⟨r, -, hreg, -, h⟩ | ⟨-, hreg, -, h⟩
  · simp [h, readsUnwritten_of_regOf_none (regOf_of_isDigit hd)]
  · rw [h, (regOf_eq_some_iff ch r).1 hreg, readsUnwritten_regChar, noteRead_uninitRead]
  · simp [h, readsUnwritten_of_regOf_none hreg]

theorem noteResolve_noteResolve_uninitRead (x y : Byte) (s : State) :
    (noteResolve y (noteResolve x s)).uninitRead = (s.uninitRead || (readsUnwritten x s || readsUnwritten y s)) := by
  rw [noteResolve_uninitRead, noteResolve_uninitRead, readsUnwritten_noteResolve, Bool.or_assoc]

/-- The datapath reads its operands in order, until one does not resolve (R93). -/
theorem arith_uninitRead (f : Nat → Nat → Option Int) (x y : Byte) (s : State) :
    (arith f x y s).uninitRead =
      (s.uninitRead || (readsUnwritten x s || (!decide (unresolvableByte x) && readsUnwritten y s))) := by
  have hunread : ∀ ch, resolve ch s = none → readsUnwritten ch s = false := fun ch h =>
    readsUnwritten_of_regOf_none ((unresolvableByte_iff ch).1 ((resolve_eq_none_iff ch s).1 h)).2 s
  simp only [← resolve_eq_none_iff _ s]
  rcases arith_cases f x y s with ⟨hx, h⟩ | ⟨a, hx, hy, h⟩ | ⟨a, b, hx, -, -, h⟩ | ⟨a, b, r, hx, -, -, h⟩
  · simp [h, hx, hunread x hx]
  · simp [h, hx, hunread y hy, noteResolve_uninitRead]
  · simp [h, hx, noteResolve_noteResolve_uninitRead]
  · simp [h, hx, noteResolve_noteResolve_uninitRead]

/-- The source of a register-pair `M` is read (R101). -/
theorem instrReadsUnwritten_mov_pair {r d : Reg} (hne : r ≠ d) (s : State) :
    instrReadsUnwritten (.mov (regChar r) (regChar d)) s = !regWritten r s := by
  cases r <;> cases d <;> simp [instrReadsUnwritten, regChar, regWritten] at hne ⊢

/-- An `M` that is not between two registers reads none. -/
theorem instrReadsUnwritten_mov_of_not_pair (h : ¬ ∃ r d, r ≠ d ∧ x = regChar r ∧ y = regChar d) (s : State) :
    instrReadsUnwritten (.mov x y) s = false := by
  have hab : ¬ (x = 0x41#8 ∧ y = 0x42#8) := fun hxy => h ⟨.a, .b, by decide, hxy⟩
  have hba : ¬ (x = 0x42#8 ∧ y = 0x41#8) := fun hxy => h ⟨.b, .a, by decide, hxy⟩
  simp [instrReadsUnwritten, ← Bool.decide_and, hab, hba]

theorem moveTo_uninitRead (d : Reg) (v : Nat) (s : State) : (moveTo d v s).uninitRead = s.uninitRead := by
  cases d <;> rfl

/-- `M` records UNINIT_READ exactly where its source is an unwritten register. -/
theorem mov_uninitRead (h : exec (.mov x y) s = .next t) :
    t.uninitRead = (s.uninitRead || instrReadsUnwritten (.mov x y) s) := by
  by_cases hpair : ∃ r d, r ≠ d ∧ x = regChar r ∧ y = regChar d
  · obtain ⟨r, d, hne, rfl, rfl⟩ := hpair
    cases h.symm.trans (exec_mov_register hne s)
    simp [moveTo_uninitRead, instrReadsUnwritten_mov_pair hne]
  · rw [instrReadsUnwritten_mov_of_not_pair hpair, Bool.or_false]
    rcases execMov_cases x y s with hm | ⟨d, -, -, hm⟩ | ⟨d, r, hy, -, hx, hne, -⟩
    · cases h.symm.trans hm
      rfl
    · cases h.symm.trans hm
      exact moveTo_uninitRead d _ s
    · exact absurd ⟨r, d, hne, (regOf_eq_some_iff x r).1 hx, (regOf_eq_some_iff y d).1 hy⟩ hpair

/-- `@` records UNINIT_READ exactly where it names an unwritten register. -/
theorem print_uninitRead (h : exec (.print x) s = .next t) :
    t.uninitRead = (s.uninitRead || readsUnwritten x s) := by
  cases hx : regOf x with
  | none =>
    cases h.symm.trans (exec_print_literal hx s)
    simp [readsUnwritten_of_regOf_none hx]
  | some r =>
    obtain rfl := (regOf_eq_some_iff x r).1 hx
    cases h.symm.trans (exec_print_register r s)
    simp [readsUnwritten_regChar]

end reads

end Sys2Proof.Proofs
end

section
/-! PROOFS of the exceptions family: the errors of an instruction (60_exceptions.md R86 to R91, R93, R95, R101). -/

namespace Sys2Proof.Proofs

open Sys2Proof.Machine

/-- Settles O35: `M` knows the other error only, and the datapath raises this one on an operand that does not resolve. -/
theorem unresolvableOperandRaisers : Obligations.UnresolvableOperandRaisers := by
  intro i s t h
  constructor
  · intro hst
    obtain ⟨⟨x, y, hi⟩ | ⟨x, y, rfl⟩, -⟩ := exec_error h (by rw [hst]; rfl)
    · obtain ⟨f, harith⟩ := exec_eq_arith hi s
      cases h.symm.trans harith
      rw [arith_status_eq_errUnresolvable_iff, resolve_eq_none_iff, resolve_eq_none_iff] at hst
      exact ⟨x, y, hi, hst⟩
    · simpa [hst] using mov_status_cases h
  · rintro ⟨x, y, hi, hbad⟩
    obtain ⟨f, harith⟩ := exec_eq_arith hi s
    cases h.symm.trans harith
    rwa [arith_status_eq_errUnresolvable_iff, resolve_eq_none_iff, resolve_eq_none_iff]

/-- Settles O36: the datapath has no result only for `/` by 0, and `M` fails exactly outside its forms. -/
theorem invalidOperationRaisers : Obligations.InvalidOperationRaisers := by
  intro i s t h
  constructor
  · intro hst
    obtain ⟨hi | ⟨x, y, rfl⟩, -⟩ := exec_error h (by rw [hst]; rfl)
    · exact .inl (eq_div_of_errInvalid hi h hst)
    · exact .inr ⟨x, y, rfl, (mov_status_eq_errInvalid_iff h).1 hst⟩
  · rintro (⟨x, y, rfl, hdiv⟩ | ⟨x, y, rfl, hform⟩)
    · cases h.symm.trans (exec_div x y s)
      exact div_status_eq_errInvalid_iff.2 hdiv
    · exact (mov_status_eq_errInvalid_iff h).2 hform

/-- Settles O37: of the six effects only the error's has an error status. -/
theorem errorsArePrecise : Obligations.ErrorsArePrecise :=
  fun _ _ _ h herr => (exec_error h herr).2

/-- Settles O39: by the reads of the datapath, of `M` and of `@`; the other instructions read no register. -/
theorem uninitReadIsRecorded : Obligations.UninitReadIsRecorded := by
  intro i s t h
  cases i with
  | add x y | sub x y | mul x y | div x y => cases h; exact arith_uninitRead _ x y s
  | mov x y => exact mov_uninitRead h
  | print x => exact print_uninitRead h
  | eq x y | gt x y | lt x y | ne x y | halt | help => cases h; exact (Bool.or_false _).symm

/-- Settles O38: each instruction's meaning ends in a next state. -/
theorem everyInstructionCompletes : Obligations.EveryInstructionCompletes := exec_next

end Sys2Proof.Proofs
end

section
/-! PROOFS of the exceptions family: the malformed lines (60_exceptions.md R89). -/

namespace Sys2Proof.Proofs

open Sys2Proof.Machine

/-- The kinds of row, with the characters that select them (30_encoding.md R49, R66). -/
theorem shapeOf_kinds (op : Byte) :
    (shapeOf op = none ∧ op ∉ opcodeMap.map Prod.fst) ∨
    (∃ i, shapeOf op = some (.zero i) ∧ (op = 0x2E#8 ∨ op = 0x48#8)) ∨
    (∃ mk, shapeOf op = some (.one mk) ∧ op = 0x40#8) ∨
    (∃ mk, shapeOf op = some (.two mk) ∧
      op ∈ [0x2B#8, 0x2D#8, 0x2A#8, 0x2F#8, 0x4D#8, 0x3F#8, 0x3E#8, 0x3C#8, 0x21#8]) := by
  cases hop : shapeOf op with
  | none => exact .inl ⟨rfl, (shapeOf_eq_none_iff op).1 hop⟩
  | some sh =>
    have hrow := shapeOf_mem op sh hop
    cases sh <;>
      simp only [opcodeMap, List.mem_cons, List.not_mem_nil, Prod.mk.injEq, reduceCtorEq, and_false, or_false,
        false_or] at hrow
    case zero i => exact .inr (.inl ⟨i, rfl, hrow.imp And.left And.left⟩)
    case one mk => exact .inr (.inr (.inl ⟨mk, rfl, hrow.1⟩))
    case two mk =>
      refine .inr (.inr (.inr ⟨mk, rfl, ?_⟩))
      rcases hrow with h | h | h | h | h | h | h | h | h <;> rw [h.1] <;> decide

section malformed
variable {op : Byte} {rest : Line}

/-- A line out of form Z (R59). -/
theorem malformed_zero_iff {i : Instr} (hop : shapeOf op = some (.zero i)) :
    (∃ w, decode (op :: rest) = .malformed w) ↔ ¬ allSpace rest = true := by
  rw [decode_of_shapeOf_zero hop]
  rcases decodeZero_cases i rest with ⟨ht, h⟩ | ⟨ht, h⟩ <;> simp [h, ht]

/-- A line out of form U (R57, R60). -/
theorem malformed_one_iff {mk : Byte → Instr} (hop : shapeOf op = some (.one mk)) :
    (∃ w, decode (op :: rest) = .malformed w) ↔
      ¬ ∃ x tail, rest = 0x20#8 :: x :: tail ∧ isSpace x = false ∧ allSpace tail = true := by
  rw [decode_of_shapeOf_one hop]
  constructor
  · rintro ⟨w, hw⟩ ⟨x, tail, rfl, hx, ht⟩
    cases hw.symm.trans (decodeOne_of_form mk hx ht)
  · intro hform
    rcases decodeOne_cases mk rest with ⟨x, tail, hrest, hx, ht, -⟩ | hbad
    · exact absurd ⟨x, tail, hrest, hx, ht⟩ hform
    · exact ⟨_, hbad⟩

/-- A line out of form B (R58, R60). -/
theorem malformed_two_iff {mk : Byte → Byte → Instr} (hop : shapeOf op = some (.two mk)) :
    (∃ w, decode (op :: rest) = .malformed w) ↔
      ¬ ∃ x y tail, rest = 0x20#8 :: x :: 0x20#8 :: y :: tail ∧ isSpace x = false ∧ isSpace y = false ∧
        allSpace tail = true := by
  rw [decode_of_shapeOf_two hop]
  constructor
  · rintro ⟨w, hw⟩ ⟨x, y, tail, rfl, hx, hy, ht⟩
    cases hw.symm.trans (decodeTwo_of_form mk hx hy ht)
  · intro hform
    rcases decodeTwo_cases mk rest with ⟨x, y, tail, hrest, hx, hy, ht, -⟩ | hbad
    · exact absurd ⟨x, y, tail, hrest, hx, hy, ht⟩ hform
    · exact ⟨_, hbad⟩

end malformed

/-- No two-operand opcode has another arity (R49). -/
theorem twoOperandOpcode_only {op : Byte}
    (h : op ∈ [0x2B#8, 0x2D#8, 0x2A#8, 0x2F#8, 0x4D#8, 0x3F#8, 0x3E#8, 0x3C#8, 0x21#8]) :
    op ∈ opcodeMap.map Prod.fst ∧ op ≠ 0x40#8 ∧ op ≠ 0x2E#8 ∧ op ≠ 0x48#8 := by
  revert op
  decide

/-- A step that takes an input reports a malformed line only where it takes one (R89). -/
theorem malformedLine_of_status {s t : State} (hin : s.inputs ≠ []) (hstep : step s = .next t)
    (hst : t.status = .errMalformed) :
    s.halted = false ∧ ∃ c more w, s.inputs = .line c :: more ∧ decode c = .malformed w := by
  cases step_eq_next_iff.1 hstep with
  | waited hnil => exact absurd hnil hin
  | reset | stopped | idled | ignored => cases hst
  | malformed c rest w hline hrun hduty hdec => exact ⟨hrun, c, rest, w, hline, hdec⟩
  | ran c rest i t hline hrun hduty hdec hexec => exact absurd hst (exec_status_ne_errMalformed hexec)

/-- A RUNNING block that takes a malformed line reports it, if the step is not refused (R89). -/
theorem status_of_malformedLine {s t : State} {c : Line} {more : List Input} {w : Malformed} (hrun : s.halted = false)
    (hin : s.inputs = .line c :: more) (hdec : decode c = .malformed w) (hstep : step s = .next t) :
    t.status = .errMalformed := by
  cases hduty : lineRefusal s.cfg.lmax c with
  | none =>
    cases hstep.symm.trans (step_malformed hrun hin hduty hdec)
    rfl
  | some r => cases hstep.symm.trans ((step_eq_refused_iff s r).2 ⟨hrun, c, more, hin, hduty⟩)

theorem exists_cons_eq_iff {op : Byte} {rest : Line} {P : Byte → Line → Prop} :
    (∃ op' rest', op :: rest = op' :: rest' ∧ P op' rest') ↔ P op rest := by
  simp

/-- Settles O11: by the kind of row that the line's first character selects, and by cases on what the step does. -/
theorem malformedCasesExactly : Obligations.MalformedCasesExactly := by
  refine ⟨fun s c more w hrun hin hduty hdec => step_malformed hrun hin hduty hdec,
    fun s t hin hstep => ⟨malformedLine_of_status hin hstep, ?raised⟩, fun c => ?listed⟩
  case raised =>
    rintro ⟨hrun, c, more, w, hline, hdec⟩
    exact status_of_malformedLine hrun hline hdec hstep
  case listed =>
    cases c with
    | nil => simp [decode]
    | cons op rest =>
      rw [exists_cons_eq_iff, ← opcodeMap_keys]
      rcases shapeOf_kinds op with ⟨hop, hnone⟩ | ⟨i, hop, hzero⟩ | ⟨mk, hop, rfl⟩ | ⟨mk, hop, htwo⟩
      · exact iff_of_true ⟨_, decode_of_shapeOf_none hop⟩ (.inl hnone)
      · rw [malformed_zero_iff hop]
        rcases hzero with rfl | rfl <;> simp [opcodeMap_keys]
      · rw [malformed_one_iff hop]
        simp [opcodeMap_keys]
      · obtain ⟨hkey, hone, hdot, hhelp⟩ := twoOperandOpcode_only htwo
        rw [malformed_two_iff hop]
        simp only [hkey, not_true_eq_false, hone, htwo, hdot, hhelp, false_and, true_and, false_or, or_false]

end Sys2Proof.Proofs
end

section
/-! PROOFS of the exceptions family: the step and its inputs (60_exceptions.md R86, R92, R94, R96, R97, R100). -/

namespace Sys2Proof.Proofs

open Sys2Proof.Machine

/-- While HALTED, one step changes at most the outputs and the inputs still to come, unless it takes Reset (R97; log 6). -/
theorem step_halted_without_reset {s : State} (hhalt : s.halted = true) (hreset : .reset ∉ s.inputs) :
    ∃ more st ev, .reset ∉ more ∧ step s = .next { s with inputs := more, status := st, event := ev } := by
  cases hin : s.inputs with
  | nil => exact ⟨[], s.status, s.event, List.not_mem_nil, by rw [step_eq_next_iff.2 (.waited hin), ← hin]⟩
  | cons inp more =>
    rw [hin, List.mem_cons, not_or] at hreset
    exact ⟨more, .idle, .none, hreset.2, step_halted hhalt hin (Ne.symm hreset.1)⟩

/-- So does every run from a HALTED state without Reset among its inputs (R96, R100). -/
theorem run_halted_without_reset (n : Nat) {s : State} (hhalt : s.halted = true) (hreset : .reset ∉ s.inputs) :
    ∃ more st ev, Host.Core.run Sys2Proof.core n s = .next { s with inputs := more, status := st, event := ev } := by
  induction n generalizing s with
  | zero => exact ⟨s.inputs, s.status, s.event, rfl⟩
  | succ n ih =>
    obtain ⟨more, st, ev, hmore, hstep⟩ := step_halted_without_reset hhalt hreset
    rw [run_of_step_next n s _ hstep]
    exact ih hhalt hmore

/-- Settles O53: by induction on the number of steps; what they change is no part of the claim. -/
theorem haltedBlockStaysUntilReset : Obligations.HaltedBlockStaysUntilReset := by
  intro n s hhalt hreset
  obtain ⟨more, st, ev, hrun⟩ := run_halted_without_reset n hhalt hreset
  exact ⟨_, hrun, hhalt, rfl, rfl, rfl, rfl, rfl⟩

/-- Settles O46: the only other outcome of a step is the refusal of a line that breaks a duty. -/
theorem stepTotalOnDutifulInputs : Obligations.StepTotalOnDutifulInputs := by
  intro s hduty
  cases hstep : step s with
  | next t => exact ⟨t, rfl⟩
  | fault r => nomatch r
  | refused r =>
    obtain ⟨-, c, more, hin, hbreaks⟩ := (step_eq_refused_iff s r).1 hstep
    have hkeeps : (Input.line c).dutiful s.cfg.lmax = true := hduty _ (by simp [hin])
    simp [Input.dutiful, hbreaks] at hkeeps

/-- Settles O40: the instruction runs in the state that taking the line leaves. -/
theorem stepRunsDecodedInstruction : Obligations.StepRunsDecodedInstruction := by
  intro s c more i hrun hin hduty hdec
  obtain ⟨t, hexec⟩ := exec_next i (takeLine s)
  rw [← takeLine_of_inputs hin, hexec]
  exact step_eq_next_iff.2 (.ran c more i t hin hrun hduty hdec hexec)

/-- Settles O42: the stop request is taken off the inputs, and the block halts. -/
theorem stopRequestHalts : Obligations.StopRequestHalts := by
  intro s more hrun hin
  rw [step_eq_next_iff.2 (.stopped more hin hrun)]
  simp [haltBlock, output, dropInput, hin]

/-- Settles O43: the HALTED check comes before any look at the line (log 11). -/
theorem haltedInputsAreIdle : Obligations.HaltedInputsAreIdle :=
  fun _ _ _ hhalt hin hne => step_halted hhalt hin hne

/-- Settles O49: by the wires in the order of R94. -/
theorem wirePriority : Obligations.WirePriority := by
  intro w
  refine ⟨fun hreset => ?reset, fun hreset hstop => ?stop, fun hreset hstop c hline => ?line,
    fun hreset hstop hline => ?idle⟩
  case reset => simp [arbitrate, hreset]
  case stop => simp [arbitrate, hreset, hstop]
  case line => simp [arbitrate, hreset, hstop, hline]
  case idle => simp [arbitrate, hreset, hstop, hline]

end Sys2Proof.Proofs
end

section
/-! SUPPORT of the reset family (70_reset_and_hazards.md): the state with every unwritten value masked. An operation commutes with
the masking where it reads no unwritten register, so what it does cannot depend on such a value. -/

namespace Sys2Proof.Proofs

open Sys2Proof.Machine

/-- The state with 0 in each register that nothing has written since reset, and in both slots of an unwritten bank (R104, log 3). -/
def maskUnwritten (s : State) : State :=
  { s with
    ax := if s.wAX then s.ax else 0
    bx := if s.wBX then s.bx else 0
    mem0 := if s.wMEM then s.mem0 else 0
    mem1 := if s.wMEM then s.mem1 else 0 }

theorem ite_zero_eq_ite_zero_iff (w : Bool) (v v' : Word) :
    (if w then v else 0) = (if w then v' else 0) ↔ (w = true → v = v') := by
  cases w <;> simp

/-- Two states differ at most in unwritten values exactly when masking makes them the same state. -/
theorem sameButUnwritten_iff (s t : State) : s.sameButUnwritten t ↔ maskUnwritten s = maskUnwritten t := by
  constructor
  · rintro ⟨hcfg, hhalted, hstatus, hevent, hwAX, hwBX, hwMEM, hread, hindex, hinputs, hax, hbx, hmem⟩
    rw [← ite_zero_eq_ite_zero_iff] at hax hbx
    rw [forall_and, ← ite_zero_eq_ite_zero_iff, ← ite_zero_eq_ite_zero_iff] at hmem
    obtain ⟨hm0, hm1⟩ := hmem
    simp only [maskUnwritten, State.mk.injEq, ← hwAX, ← hwBX, ← hwMEM, true_and]
    exact ⟨hcfg, hax, hbx, hm0, hm1, hhalted, hstatus, hevent, hread, hindex, hinputs⟩
  · intro h
    simp only [maskUnwritten, State.mk.injEq] at h
    obtain ⟨hcfg, hax, hbx, hm0, hm1, hhalted, hstatus, hevent, hwAX, hwBX, hwMEM, hread, hindex, hinputs⟩ := h
    rw [← hwAX, ite_zero_eq_ite_zero_iff] at hax
    rw [← hwBX, ite_zero_eq_ite_zero_iff] at hbx
    rw [← hwMEM, ite_zero_eq_ite_zero_iff] at hm0 hm1
    exact ⟨hcfg, hhalted, hstatus, hevent, hwAX, hwBX, hwMEM, hread, hindex, hinputs, hax, hbx,
      fun hw => ⟨hm0 hw, hm1 hw⟩⟩

/-! ### Masking and the operations -/

section operations
variable (s : State)

theorem maskUnwritten_cfg : (maskUnwritten s).cfg = s.cfg := rfl

theorem maskUnwritten_output (st : Status) (ev : Event) :
    maskUnwritten (output st ev s) = output st ev (maskUnwritten s) := rfl

theorem maskUnwritten_raise (k : ErrorKind) : maskUnwritten (raise k s) = raise k (maskUnwritten s) := rfl

theorem maskUnwritten_writeReg (r : Reg) (v : Word) :
    maskUnwritten (writeReg r v s) = writeReg r v (maskUnwritten s) := by cases r <;> rfl

theorem maskUnwritten_storeResult (r : Int) :
    maskUnwritten (storeResult r s) = storeResult r (maskUnwritten s) := rfl

theorem maskUnwritten_moveTo (d : Reg) (v : Nat) :
    maskUnwritten (moveTo d v s) = moveTo d v (maskUnwritten s) := by cases d <;> rfl

theorem maskUnwritten_noteRead (r : Reg) : maskUnwritten (noteRead r s) = noteRead r (maskUnwritten s) := by
  cases r <;> rfl

theorem maskUnwritten_noteResolve (ch : Byte) :
    maskUnwritten (noteResolve ch s) = noteResolve ch (maskUnwritten s) := by
  unfold noteResolve
  cases select ch with
  | digit d => rfl
  | reg r => exact maskUnwritten_noteRead s r
  | err => rfl

/-- What an instruction reads unwritten depends on the ghost bits only, which masking keeps (60_exceptions.md R101). -/
theorem instrReadsUnwritten_maskUnwritten (i : Instr) :
    instrReadsUnwritten i (maskUnwritten s) = instrReadsUnwritten i s := by cases i <;> rfl

end operations

section reads
variable {s t : State} {x y ch : Byte} {r : Reg} {i : Instr}

/-- A written register reads the same. -/
theorem readReg_maskUnwritten (h : regWritten r s = true) : readReg r (maskUnwritten s) = readReg r s := by
  cases r <;> exact if_pos h

/-- So does an operand that names no unwritten register. -/
theorem resolve_maskUnwritten (h : readsUnwritten ch s = false) :
    resolve ch (maskUnwritten s) = resolve ch s := by
  rcases resolve_cases ch s with ⟨hd, -, -⟩ | ⟨r, hd, hreg, -, -⟩ | ⟨-, -, hnone, -⟩
  · simp [resolve, select, hd]
  · obtain rfl := (regOf_eq_some_iff ch r).1 hreg
    have hwritten : regWritten r s = true := by simpa [readsUnwritten_regChar] using h
    simp [resolve, select, hd, hreg, readReg_maskUnwritten hwritten]
  · rw [hnone, resolve_eq_none_iff, ← resolve_eq_none_iff ch s, hnone]

/-- The datapath commutes with masking where it reads no unwritten register (40_arithmetic.md R70). -/
theorem arith_maskUnwritten (f : Nat → Nat → Option Int)
    (h : (readsUnwritten x s || (!decide (unresolvableByte x) && readsUnwritten y s)) = false) :
    arith f x y (maskUnwritten s) = maskUnwritten (arith f x y s) := by
  simp only [← resolve_eq_none_iff x s, Bool.or_eq_false_iff] at h
  obtain ⟨hreadx, hready⟩ := h
  have hresx := resolve_maskUnwritten hreadx
  cases hx : resolve x s with
  | none => rw [arith_of_unresolved_left hx, arith_of_unresolved_left (hresx.trans hx), maskUnwritten_raise]
  | some a =>
    have hresy : resolve y (maskUnwritten s) = resolve y s := resolve_maskUnwritten (by simpa [hx] using hready)
    cases hy : resolve y s with
    | none =>
      rw [arith_of_unresolved_right hx hy, arith_of_unresolved_right (hresx.trans hx) (hresy.trans hy),
        maskUnwritten_raise, maskUnwritten_noteResolve]
    | some b =>
      cases hf : f a b with
      | none =>
        rw [arith_of_no_result hx hy hf, arith_of_no_result (hresx.trans hx) (hresy.trans hy) hf,
          maskUnwritten_raise, maskUnwritten_noteResolve, maskUnwritten_noteResolve]
      | some r =>
        rw [arith_of_result hx hy hf, arith_of_result (hresx.trans hx) (hresy.trans hy) hf, maskUnwritten_output,
          maskUnwritten_storeResult, maskUnwritten_writeReg, maskUnwritten_noteResolve, maskUnwritten_noteResolve,
          maskUnwritten_cfg]

/-- `M` commutes with masking where its source is no unwritten register (41_move.md R76). -/
theorem exec_mov_maskUnwritten (hread : instrReadsUnwritten (.mov x y) s = false)
    (h : exec (.mov x y) s = .next t) : exec (.mov x y) (maskUnwritten s) = .next (maskUnwritten t) := by
  by_cases hform : (y ≠ 0x41#8 ∧ y ≠ 0x42#8) ∨ unresolvableByte x ∨ x = y
  · cases h.symm.trans (movRejectsOtherForms x y s hform)
    exact movRejectsOtherForms x y (maskUnwritten s) hform
  · obtain ⟨d, rfl, hdigit | ⟨r, hne, rfl⟩⟩ := mov_accepted_of_not_rejected hform
    · cases h.symm.trans (exec_mov_digit hdigit d s)
      rw [exec_mov_digit hdigit, maskUnwritten_moveTo]
    · cases h.symm.trans (exec_mov_register hne s)
      have hwritten : regWritten r s = true := by simpa [instrReadsUnwritten_mov_pair hne] using hread
      rw [exec_mov_register hne, readReg_maskUnwritten hwritten, maskUnwritten_moveTo, maskUnwritten_noteRead]

/-- `@` commutes with masking where it names no unwritten register (43_print.md R82). -/
theorem exec_print_maskUnwritten (hread : readsUnwritten x s = false) (h : exec (.print x) s = .next t) :
    exec (.print x) (maskUnwritten s) = .next (maskUnwritten t) := by
  rcases execPrint_cases x s with ⟨r, hx, hp⟩ | ⟨hx, hp⟩
  · cases h.symm.trans hp
    obtain rfl := (regOf_eq_some_iff x r).1 hx
    have hwritten : regWritten r s = true := by simpa [readsUnwritten_regChar] using hread
    rw [exec_print_register, readReg_maskUnwritten hwritten, maskUnwritten_output, maskUnwritten_noteRead]
    rfl
  · cases h.symm.trans hp
    exact exec_print_literal hx (maskUnwritten s)

/-- An instruction that reads no unwritten register commutes with masking. -/
theorem exec_maskUnwritten (hread : instrReadsUnwritten i s = false) (h : exec i s = .next t) :
    exec i (maskUnwritten s) = .next (maskUnwritten t) := by
  cases i with
  | add x y | sub x y | mul x y | div x y => cases h; exact congrArg _ (arith_maskUnwritten _ hread)
  | mov x y => exact exec_mov_maskUnwritten hread h
  | print x => exact exec_print_maskUnwritten hread h
  | eq x y | gt x y | lt x y | ne x y | halt | help => cases h; rfl

end reads

/-! ### Certified steps and runs -/

section certified
variable {s s' t : State}

/-- An instruction that leaves the run certified started in a certified state and read no unwritten register (R101). -/
theorem exec_certified_iff {i : Instr} (h : exec i s = .next s') :
    s'.certified ↔ s.certified ∧ instrReadsUnwritten i s = false := by
  rw [State.certified, uninitReadIsRecorded i s s' h, Bool.or_eq_false_iff]

/-- UNINIT_READ is never cleared: a step that leaves the run certified started in a certified state (R101, log 5). -/
theorem certified_of_step (h : step s = .next s') (hcert : s'.certified) : s.certified := by
  cases step_eq_next_iff.1 h with
  | waited | reset | stopped | idled | ignored | malformed => exact hcert
  | ran c rest i t hin hrun hduty hdec hexec => exact ((exec_certified_iff hexec).1 hcert).1

/-- A run of `n + 1` steps is a step and then a run of `n`. -/
theorem run_succ_eq_next_iff (n : Nat) (s t : State) :
    Host.Core.run Sys2Proof.core (n + 1) s = .next t ↔
      ∃ u, step s = .next u ∧ Host.Core.run Sys2Proof.core n u = .next t := by
  cases hstep : step s with
  | next u => simp [run_of_step_next n s u hstep]
  | fault r => nomatch r
  | refused r => simp [run_of_step_refused n s r hstep]

/-- A run that ends certified started in a certified state (R101). -/
theorem certified_of_run (n : Nat) (h : Host.Core.run Sys2Proof.core n s = .next s') (hcert : s'.certified) :
    s.certified := by
  induction n generalizing s with
  | zero => cases h; exact hcert
  | succ n ih =>
    obtain ⟨u, hstep, hrun⟩ := (run_succ_eq_next_iff n s s').1 h
    exact certified_of_step hstep (ih hrun)

/-- From two states that masking makes the same, an instruction that leaves the first certified leaves two such states. -/
theorem exec_of_maskUnwritten_eq {i : Instr} (hsame : maskUnwritten s = maskUnwritten t) (h : exec i s = .next s')
    (hcert : s'.certified) : ∃ t', exec i t = .next t' ∧ maskUnwritten s' = maskUnwritten t' := by
  obtain ⟨t', ht⟩ := exec_next i t
  obtain ⟨-, hread⟩ := (exec_certified_iff h).1 hcert
  have hreadt : instrReadsUnwritten i t = false := by
    rw [← instrReadsUnwritten_maskUnwritten, ← hsame, instrReadsUnwritten_maskUnwritten, hread]
  have hmasked := exec_maskUnwritten hread h
  rw [hsame, exec_maskUnwritten hreadt ht] at hmasked
  exact ⟨t', ht, (Host.Outcome.next.inj hmasked).symm⟩

end certified

end Sys2Proof.Proofs
end

section
/-! PROOFS of the reset family (70_reset_and_hazards.md R103, R104, R107). -/

namespace Sys2Proof.Proofs

open Sys2Proof.Machine

/-- Settles O51: the state after reset is one that the input Reset leaves. -/
theorem resetStateMeetsInv : Obligations.ResetStateMeetsInv :=
  ⟨resetBlock_inv State.reset, rfl, rfl, rfl, rfl, rfl, rfl, rfl, by decide⟩

/-- Settles O44: Reset is taken off the inputs, and the block is reset in either run state. -/
theorem resetInputStartsNewRun : Obligations.ResetInputStartsNewRun := by
  intro s more hin
  obtain ⟨hwords, -⟩ := resetBlock_inv (dropInput s)
  have hinputs : (resetBlock (dropInput s)).inputs = more := by simp [hin]
  exact ⟨_, step_eq_next_iff.2 (.reset more hin), rfl, rfl, rfl, rfl, rfl, rfl, hwords, rfl, hinputs, rfl⟩

/-- Settles O54: by cases on what the step does. Each effect but an instruction's commutes with masking by definition; an
instruction's does because a certified step reads no unwritten register. -/
theorem certifiedStepIgnoresUnwrittenValues : Obligations.CertifiedStepIgnoresUnwrittenValues := by
  intro s s' t hsame hstep hcert
  obtain ⟨hcfg, hhalted, -, -, -, -, -, -, -, hinputs, -⟩ := id hsame
  simp only [sameButUnwritten_iff] at hsame ⊢
  cases step_eq_next_iff.1 hstep with
  | waited hin => exact ⟨t, step_eq_next_iff.2 (.waited (hinputs ▸ hin)), hsame⟩
  | reset rest hin =>
    exact ⟨_, step_eq_next_iff.2 (.reset rest (hinputs ▸ hin)),
      congrArg (fun u => resetBlock (dropInput u)) hsame⟩
  | stopped rest hin hrun =>
    exact ⟨_, step_eq_next_iff.2 (.stopped rest (hinputs ▸ hin) (hhalted ▸ hrun)),
      congrArg (fun u => haltBlock (dropInput u)) hsame⟩
  | idled inp rest hin hne hhalt =>
    exact ⟨_, step_eq_next_iff.2 (.idled inp rest (hinputs ▸ hin) hne (hhalted ▸ hhalt)),
      congrArg (fun u => idleInput (dropInput u)) hsame⟩
  | ignored c rest hin hrun hduty hdec =>
    exact ⟨_, step_eq_next_iff.2 (.ignored c rest (hinputs ▸ hin) (hhalted ▸ hrun) (hcfg ▸ hduty) hdec),
      congrArg (fun u => ignoreLine (takeLine u)) hsame⟩
  | malformed c rest w hin hrun hduty hdec =>
    exact ⟨_, step_eq_next_iff.2 (.malformed c rest w (hinputs ▸ hin) (hhalted ▸ hrun) (hcfg ▸ hduty) hdec),
      congrArg (fun u => raise .malformedInstruction (takeLine u)) hsame⟩
  | ran c rest i s' hin hrun hduty hdec hexec =>
    have htaken : maskUnwritten (takeLine s) = maskUnwritten (takeLine t) := congrArg takeLine hsame
    obtain ⟨t', hexect, hsame'⟩ := exec_of_maskUnwritten_eq htaken hexec hcert
    exact ⟨t', step_eq_next_iff.2
      (.ran c rest i t' (hinputs ▸ hin) (hhalted ▸ hrun) (hcfg ▸ hduty) hdec hexect), hsame'⟩

/-- Settles O55: by induction on the number of steps; the state after the first step is certified because the last one is. -/
theorem certifiedRunsIgnoreUnwrittenValues : Obligations.CertifiedRunsIgnoreUnwrittenValues := by
  intro n
  induction n with
  | zero =>
    intro s s' t hsame hrun _
    cases hrun
    exact ⟨t, rfl, hsame⟩
  | succ n ih =>
    intro s s' t hsame hrun hcert
    obtain ⟨u, hstep, hrest⟩ := (run_succ_eq_next_iff n s s').1 hrun
    obtain ⟨v, hstepv, hsameuv⟩ :=
      certifiedStepIgnoresUnwrittenValues s u t hsame hstep (certified_of_run n hrest hcert)
    obtain ⟨t', hrunv, hsame'⟩ := ih u s' v hsameuv hrest hcert
    exact ⟨t', (run_succ_eq_next_iff n t t').2 ⟨v, hstepv, hrunv⟩, hsame'⟩

end Sys2Proof.Proofs
end

section
/-! PROOFS of the encoding family: the words of the opcode table (30_encoding.md R51, R53; 95_test_vectors.md §2; log 7). -/

namespace Sys2Proof.Proofs

section words
variable {nbits w : Nat}

/-- A table word that decodes is the line of its instruction, as the decoder reads lines (R53). -/
theorem decodeTableWord_eq_some_iff {i : Instr} :
    decodeTableWord nbits w = some i ↔ IsWritten i (tableLine nbits w) := by
  rw [← decode_eq_instr_iff, decodeTableWord]
  cases decode (tableLine nbits w) <;> simp

theorem decodeTableWord_of_tableLine {i : Instr} (tail : Line) (hline : tableLine nbits w = encode i ++ tail)
    (hwf : i.wf = true) (ht : allSpace tail = true) : decodeTableWord nbits w = some i :=
  decodeTableWord_eq_some_iff.2 ⟨isSpace_of_wf hwf, tail, ht, hline⟩

theorem decodeTableWord_of_malformed {c : Line} {why : Malformed} (hline : tableLine nbits w = c)
    (hdec : decode c = .malformed why) : decodeTableWord nbits w = none := by
  rw [decodeTableWord, hline, hdec]

end words

/-- Further text after the opcode of a form-Z line (R59). -/
theorem decodeZero_of_not_allSpace (i : Instr) {rest : Line} (h : allSpace rest = false) :
    decodeZero i rest = .malformed .zeroForm := by
  simp [decodeZero, h]

/-- Further text after the second operand (R58). -/
theorem decodeTwo_of_not_allSpace (mk : Byte → Byte → Instr) (s1 x s2 y : Byte) {tail : Line}
    (h : allSpace tail = false) : decodeTwo mk (s1 :: x :: s2 :: y :: tail) = .malformed .twoForm := by
  simp [decodeTwo, h]

/-- Settles O5: the first six words are their instructions written out, `H` with a carriage return after it; the last two
have text where only whitespace may stand. -/
theorem testVectorWordsDecode : Obligations.TestVectorWordsDecode := by
  refine ⟨?add, ?sub, ?mov, ?gt, ?print, ?help, ?addWithText, ?haltWithText⟩
  case add => exact decodeTableWord_of_tableLine [] (by decide) rfl rfl
  case sub => exact decodeTableWord_of_tableLine [] (by decide) rfl rfl
  case mov => exact decodeTableWord_of_tableLine [] (by decide) rfl rfl
  case gt => exact decodeTableWord_of_tableLine [] (by decide) rfl rfl
  case print => exact decodeTableWord_of_tableLine [] (by decide) rfl rfl
  case help => exact decodeTableWord_of_tableLine [0x0D#8] (by decide) rfl rfl
  case addWithText =>
    have hline : tableLine 48 0x2B2033203435 = [0x2B#8, 0x20#8, 0x33#8, 0x20#8, 0x34#8, 0x35#8] := by decide
    exact decodeTableWord_of_malformed hline
      ((decode_of_shapeOf_two rfl).trans (decodeTwo_of_not_allSpace .add _ _ _ _ rfl))
  case haltWithText =>
    have hline : tableLine 48 0x2E7800000000 = [0x2E#8, 0x78#8] := by decide
    exact decodeTableWord_of_malformed hline
      ((decode_of_shapeOf_zero rfl).trans (decodeZero_of_not_allSpace .halt rfl))

end Sys2Proof.Proofs
end
